-- ==== Sys2Proof/Word.lean ====
section
/-! DEFINITION. The word types of the DMA block: bytes, 32-bit registers and 32-bit addresses
(00_scope.md R6 `XLEN`, `ALEN`; R7, R8: every value is unsigned, arithmetic is modulo 2^32, which is
what `BitVec 32` addition and subtraction are). -/

namespace Sys2Proof

/-- One byte of memory, of a narrow CSR access or of the staging buffer. -/
abbrev Byte := BitVec 8

/-- A pointer register, a CSR value or a size (`XLEN` = 32, 00_scope.md R6). -/
abbrev Word := BitVec 32

/-- A main memory address (`ALEN` = 32, 00_scope.md R6). -/
abbrev Addr := BitVec 32

/-- `WORD`, the bytes of one commit word write (00_scope.md R6, D3). -/
def wordBytes : Nat := 4

end Sys2Proof
end

