-- ==== Sys2Proof/Config.lean ====
section
/-! DEFINITION. The channels of the block (10_state.md R20), the implementation parameters of
00_scope.md R6 as one plain record, and the two constants that stay open with no value: the free bytes
of `draw()` and the register blocks of `RegAddr`. -/

namespace Sys2Proof

/-- The twelve channels, in the source's order (10_state.md R20). -/
inductive Chan where
  | storage | soundOut | opticalDisk | soundIn | printer | serial
  | dsp | netTx | netRx | video | m2r | r2m
deriving DecidableEq, Repr

/-- The enumeration of 10_state.md R20, in its order; the decoder of R100 searches it in this order. -/
def Chan.all : List Chan :=
  [.storage, .soundOut, .opticalDisk, .soundIn, .printer, .serial,
   .dsp, .netTx, .netRx, .video, .m2r, .r2m]

/-- One value per channel: "an explicit array-or-mapping keyed by a closed enumeration of twelve
channel identifiers" (10_state.md R20), as plain data. -/
structure PerChan (α : Type) where
  storage : α
  soundOut : α
  opticalDisk : α
  soundIn : α
  printer : α
  serial : α
  dsp : α
  netTx : α
  netRx : α
  video : α
  m2r : α
  r2m : α
deriving DecidableEq, Repr

/-- The entry of a channel. -/
def PerChan.get {α : Type} (p : PerChan α) : Chan → α
  | .storage => p.storage
  | .soundOut => p.soundOut
  | .opticalDisk => p.opticalDisk
  | .soundIn => p.soundIn
  | .printer => p.printer
  | .serial => p.serial
  | .dsp => p.dsp
  | .netTx => p.netTx
  | .netRx => p.netRx
  | .video => p.video
  | .m2r => p.m2r
  | .r2m => p.r2m

/-- The table with one channel's entry replaced. -/
def PerChan.set {α : Type} (p : PerChan α) (ch : Chan) (v : α) : PerChan α :=
  match ch with
  | .storage => { p with storage := v }
  | .soundOut => { p with soundOut := v }
  | .opticalDisk => { p with opticalDisk := v }
  | .soundIn => { p with soundIn := v }
  | .printer => { p with printer := v }
  | .serial => { p with serial := v }
  | .dsp => { p with dsp := v }
  | .netTx => { p with netTx := v }
  | .netRx => { p with netRx := v }
  | .video => { p with video := v }
  | .m2r => { p with m2r := v }
  | .r2m => { p with r2m := v }

/-- The table with the same entry for every channel. -/
def PerChan.fill {α : Type} (v : α) : PerChan α := ⟨v, v, v, v, v, v, v, v, v, v, v, v⟩

/-- Machine generation `GEN` (00_scope.md R6, 30_encoding.md R84): `legacy` has the narrow 8-bit CSR,
`current` the wide 32-bit one. -/
inductive Gen where
  | legacy | current
deriving DecidableEq, Repr

/-- The pointer a memory-read size is measured from (43_block_transfer.md R192). -/
inductive SizeFrom where
  | init | next | base
deriving DecidableEq, Repr

/-- `READ_SIZE_FROM(ch, TURBO)` for one channel: its value without and with turbo mode
(00_scope.md R6, 43_block_transfer.md R192). -/
structure SizeRule where
  plain : SizeFrom
  turbo : SizeFrom
deriving DecidableEq, Repr

/-- An interrupt line. 40_register_access.md R101 names each line by its channel (`INT_STORAGE_DMA` is
`⟨.storage⟩`); the lines' numbers in the interrupt controller are OPEN and no rule uses them. The name
`⟨.video⟩` exists only for a configuration that takes the other answer to 93_implementation_defined.md
I2; the default configuration gives video no line (log 10). -/
structure IrqLine where
  owner : Chan
deriving DecidableEq, Repr

/-- `Layout`: the bit positions of the CSR fields (30_encoding.md R73, D1; log 3). -/
structure Layout where
  busexc : Nat
  complete : Nat
  supdate : Nat
  enable : Nat
  initbuf : Nat
  reset : Nat
  clrcomplete : Nat
  dir : Nat
  setsupdate : Nat
  setenable : Nat
deriving DecidableEq, Repr

/-- The table of 30_encoding.md R73. -/
def Layout.default : Layout where
  busexc := 28
  complete := 27
  supdate := 25
  enable := 24
  initbuf := 21
  reset := 20
  clrcomplete := 19
  dir := 18
  setsupdate := 17
  setenable := 16

/-- The implementation parameters of 00_scope.md R6, "None of them changes while the block runs". -/
structure Config where
  gen : Gen
  turbo : Bool
  burst : Nat
  layout : Layout
  narrowWriteShift : Nat
  narrowStatusShift : Nat
  narrowDirBit : Nat
  chanOff : PerChan Word
  irq : PerChan (Option IrqLine)
  align : PerChan Nat
  readSizeFrom : PerChan SizeRule
  enableGuard : Bool
  faultIrq : Bool
deriving DecidableEq, Repr

namespace Config

/-- The default values of 00_scope.md R6, the example channel offsets of 40_register_access.md R100 and
the diagnostic units of 43_block_transfer.md R200. The spec gives `GEN` and `TURBO` no default; `current`
and `false` are DESIGN CHOICES (log 1). The OPEN parameters' defaults are the spec's examples, not facts
of the hardware (log 2). -/
def default : Config where
  gen := .current
  turbo := false
  burst := 16
  layout := .default
  narrowWriteShift := 16
  narrowStatusShift := 24
  narrowDirBit := 3
  chanOff :=
    { storage := 0x010, soundOut := 0x040, opticalDisk := 0x050, soundIn := 0x080,
      printer := 0x090, serial := 0x0C0, dsp := 0x0D0, netTx := 0x110, netRx := 0x150,
      video := 0x180, m2r := 0x1D0, r2m := 0x1C0 }
  irq :=
    { storage := some ⟨.storage⟩, soundOut := some ⟨.soundOut⟩, opticalDisk := some ⟨.opticalDisk⟩,
      soundIn := some ⟨.soundIn⟩, printer := some ⟨.printer⟩, serial := some ⟨.serial⟩,
      dsp := some ⟨.dsp⟩, netTx := some ⟨.netTx⟩, netRx := some ⟨.netRx⟩, video := none,
      m2r := some ⟨.m2r⟩, r2m := some ⟨.r2m⟩ }
  align := { PerChan.fill 16 with netTx := 32, netRx := 32 }
  readSizeFrom := PerChan.fill ⟨.base, .base⟩
  enableGuard := true
  faultIrq := true

/-- What 00_scope.md R6, 40_register_access.md R100 and R101 and 30_encoding.md R73 require of a
configuration: the twelve offsets are distinct, so are the lines, a burst is a whole number of words and
not empty, the ten CSR positions are distinct bits of a 32-bit register, and the command bits and the
direction bit lie in the byte that a narrow write reaches. -/
abbrev Wf (c : Config) : Prop :=
  (0 < c.burst ∧ c.burst % wordBytes = 0) ∧
  (Chan.all.map c.chanOff.get).Nodup ∧
  (Chan.all.filterMap c.irq.get).Nodup ∧
  [c.layout.busexc, c.layout.complete, c.layout.supdate, c.layout.enable, c.layout.initbuf,
    c.layout.reset, c.layout.clrcomplete, c.layout.dir, c.layout.setsupdate,
    c.layout.setenable].Nodup ∧
  (∀ p ∈ [c.layout.busexc, c.layout.complete, c.layout.supdate, c.layout.enable], p < 32) ∧
  (∀ p ∈ [c.layout.initbuf, c.layout.reset, c.layout.clrcomplete, c.layout.dir,
    c.layout.setsupdate, c.layout.setenable],
    c.narrowWriteShift ≤ p ∧ p < c.narrowWriteShift + 8 ∧ p < 32) ∧
  c.narrowDirBit < 8

/-- `draw()`: "a free input of the step: any byte value, under no law" (00_scope.md R9). It has no body,
so nothing can be proved of a drawn byte; `State.draws` counts the draws, so that each draw is fresh
(log 9). -/
opaque drawByte : Nat → Byte

end Config

/-- The register groups of 30_encoding.md R71 and R72. -/
inductive RegGroup where
  | csr | saved | live | initsz
deriving DecidableEq, Repr

namespace Config

/-- The bus address of a channel's block of one register group: OPEN, no value in the source
(20_memory.md R58, 00_scope.md R6 `RegAddr`, D22). It has no body (log 20). -/
opaque regBlock : RegGroup → Chan → Addr

/-- `RegAddr(group, index, ch)`: "Within a group, the registers lie in the source's listed order, 4 bytes
apart" (20_memory.md R58). The dispatch layer that uses it is out of scope (00_scope.md R4). -/
def regAddr (g : RegGroup) (index : Nat) (ch : Chan) : Addr :=
  regBlock g ch + BitVec.ofNat 32 (4 * index)

end Config

end Sys2Proof
end

