-- ==== Sys2Proof/Syntax.lean ====
section
/-! DEFINITION. The operations of the block: one constructor of `Instr` per row of spec/opcode_table.json
(30_encoding.md R70 to R83), their operand types, the 32 values of the CSR command field, and the byte
frames that carry an operation to the block. -/

namespace Sys2Proof

/-- The width of a register access on the bus. A register's own width is `byte` or `word`
(30_encoding.md R72); `half` exists because an access may be made at a width that no register has, which
R82 and R103 refuse (log 18). -/
inductive Width where
  | byte | half | word
deriving DecidableEq, Repr

/-- The value of a register write, with the width it is written at (20_memory.md R53: "as an unsigned
integer of the register's width"). -/
inductive BusValue where
  | byte (v : Byte)
  | half (v : BitVec 16)
  | word (v : Word)
deriving DecidableEq, Repr

/-- The width of a written value. -/
def BusValue.width : BusValue → Width
  | .byte _ => .byte
  | .half _ => .half
  | .word _ => .word

/-- A CSR write value in one of its two encodings: `wide` has format `CSRW_WIDE` (30_encoding.md R76),
`narrow` has format `CSRW_NARROW` (R77). -/
inductive CsrValue where
  | wide (v : Word)
  | narrow (b : Byte)
deriving DecidableEq, Repr

/-- The values of the command field (30_encoding.md R78 to R80): eight recognised combinations and the 24
others, each named by its narrow byte `& 0x3B` as R80 lists them. -/
inductive Command where
  | reset
  | initbuf
  | resetInitbuf
  | clrcomplete
  | setsupdateClrcomplete
  | setenable
  | setenableSetsupdate
  | noCommand
  | unrec02
  | unrec09
  | unrec0B
  | unrec11
  | unrec12
  | unrec13
  | unrec18
  | unrec19
  | unrec1A
  | unrec1B
  | unrec21
  | unrec22
  | unrec23
  | unrec28
  | unrec29
  | unrec2A
  | unrec2B
  | unrec31
  | unrec32
  | unrec33
  | unrec38
  | unrec39
  | unrec3A
  | unrec3B
deriving DecidableEq, Repr

/-- How an operation reaches the block: the format of its frame (30_encoding.md R71, R76, R77, R83). -/
inductive Format where
  | ra | csrwWide | csrwNarrow | dev | sys
deriving DecidableEq, Repr

/-- An operation as it is issued: its format and its bytes (the layout is `Decode.lean`'s, log 5). -/
structure Frame where
  format : Format
  bytes : List Byte
deriving DecidableEq, Repr

/-- The operations of the block, one constructor per row of spec/opcode_table.json.

* `rd…` and `wr…` are register accesses (format `RA`, R71): `off` is the channel offset that the dispatch
  layer extracted, `width` the width of a read, `v` the written value with its width.
* `cmd…Wide` and `cmd…Narrow` are CSR writes to the decoded channel `ch` whose value carries that command
  (formats `CSRW_WIDE` and `CSRW_NARROW`); the operand is the whole written value, direction bit and
  ignored bits included (log 17).
* `dev…` are the device calls and `sysReset` is system reset (R83). -/
inductive Instr where
  | rdCsrWide (off : Word)
  | rdCsrNarrow (off : Word)
  | wrCsr (off : Word) (v : BusValue)
  | rdSavedNext (off : Word) (width : Width)
  | wrSavedNext (off : Word) (v : BusValue)
  | rdSavedLimit (off : Word) (width : Width)
  | wrSavedLimit (off : Word) (v : BusValue)
  | rdSavedStart (off : Word) (width : Width)
  | wrSavedStart (off : Word) (v : BusValue)
  | rdSavedStop (off : Word) (width : Width)
  | wrSavedStop (off : Word) (v : BusValue)
  | rdNext (off : Word) (width : Width)
  | wrNext (off : Word) (v : BusValue)
  | rdLimit (off : Word) (width : Width)
  | wrLimit (off : Word) (v : BusValue)
  | rdStart (off : Word) (width : Width)
  | wrStart (off : Word) (v : BusValue)
  | rdStop (off : Word) (width : Width)
  | wrStop (off : Word) (v : BusValue)
  | rdInit (off : Word) (width : Width)
  | wrInit (off : Word) (v : BusValue)
  | rdSize (off : Word) (width : Width)
  | wrSize (off : Word) (v : BusValue)
  | cmdResetWide (ch : Chan) (v : Word)
  | cmdResetNarrow (ch : Chan) (b : Byte)
  | cmdInitbufWide (ch : Chan) (v : Word)
  | cmdInitbufNarrow (ch : Chan) (b : Byte)
  | cmdResetInitbufWide (ch : Chan) (v : Word)
  | cmdResetInitbufNarrow (ch : Chan) (b : Byte)
  | cmdClrcompleteWide (ch : Chan) (v : Word)
  | cmdClrcompleteNarrow (ch : Chan) (b : Byte)
  | cmdSetsupdateClrcompleteWide (ch : Chan) (v : Word)
  | cmdSetsupdateClrcompleteNarrow (ch : Chan) (b : Byte)
  | cmdSetenableWide (ch : Chan) (v : Word)
  | cmdSetenableNarrow (ch : Chan) (b : Byte)
  | cmdSetenableSetsupdateWide (ch : Chan) (v : Word)
  | cmdSetenableSetsupdateNarrow (ch : Chan) (b : Byte)
  | cmdNoneWide (ch : Chan) (v : Word)
  | cmdNoneNarrow (ch : Chan) (b : Byte)
  | cmdUnrec02Wide (ch : Chan) (v : Word)
  | cmdUnrec02Narrow (ch : Chan) (b : Byte)
  | cmdUnrec09Wide (ch : Chan) (v : Word)
  | cmdUnrec09Narrow (ch : Chan) (b : Byte)
  | cmdUnrec0BWide (ch : Chan) (v : Word)
  | cmdUnrec0BNarrow (ch : Chan) (b : Byte)
  | cmdUnrec11Wide (ch : Chan) (v : Word)
  | cmdUnrec11Narrow (ch : Chan) (b : Byte)
  | cmdUnrec12Wide (ch : Chan) (v : Word)
  | cmdUnrec12Narrow (ch : Chan) (b : Byte)
  | cmdUnrec13Wide (ch : Chan) (v : Word)
  | cmdUnrec13Narrow (ch : Chan) (b : Byte)
  | cmdUnrec18Wide (ch : Chan) (v : Word)
  | cmdUnrec18Narrow (ch : Chan) (b : Byte)
  | cmdUnrec19Wide (ch : Chan) (v : Word)
  | cmdUnrec19Narrow (ch : Chan) (b : Byte)
  | cmdUnrec1AWide (ch : Chan) (v : Word)
  | cmdUnrec1ANarrow (ch : Chan) (b : Byte)
  | cmdUnrec1BWide (ch : Chan) (v : Word)
  | cmdUnrec1BNarrow (ch : Chan) (b : Byte)
  | cmdUnrec21Wide (ch : Chan) (v : Word)
  | cmdUnrec21Narrow (ch : Chan) (b : Byte)
  | cmdUnrec22Wide (ch : Chan) (v : Word)
  | cmdUnrec22Narrow (ch : Chan) (b : Byte)
  | cmdUnrec23Wide (ch : Chan) (v : Word)
  | cmdUnrec23Narrow (ch : Chan) (b : Byte)
  | cmdUnrec28Wide (ch : Chan) (v : Word)
  | cmdUnrec28Narrow (ch : Chan) (b : Byte)
  | cmdUnrec29Wide (ch : Chan) (v : Word)
  | cmdUnrec29Narrow (ch : Chan) (b : Byte)
  | cmdUnrec2AWide (ch : Chan) (v : Word)
  | cmdUnrec2ANarrow (ch : Chan) (b : Byte)
  | cmdUnrec2BWide (ch : Chan) (v : Word)
  | cmdUnrec2BNarrow (ch : Chan) (b : Byte)
  | cmdUnrec31Wide (ch : Chan) (v : Word)
  | cmdUnrec31Narrow (ch : Chan) (b : Byte)
  | cmdUnrec32Wide (ch : Chan) (v : Word)
  | cmdUnrec32Narrow (ch : Chan) (b : Byte)
  | cmdUnrec33Wide (ch : Chan) (v : Word)
  | cmdUnrec33Narrow (ch : Chan) (b : Byte)
  | cmdUnrec38Wide (ch : Chan) (v : Word)
  | cmdUnrec38Narrow (ch : Chan) (b : Byte)
  | cmdUnrec39Wide (ch : Chan) (v : Word)
  | cmdUnrec39Narrow (ch : Chan) (b : Byte)
  | cmdUnrec3AWide (ch : Chan) (v : Word)
  | cmdUnrec3ANarrow (ch : Chan) (b : Byte)
  | cmdUnrec3BWide (ch : Chan) (v : Word)
  | cmdUnrec3BNarrow (ch : Chan) (b : Byte)
  | devCommit
  | devFlush
  | devMRead (ch : Chan)
  | devMWrite (ch : Chan) (bytes : List Byte)
  | sysReset
deriving DecidableEq, Repr

end Sys2Proof
end

