-- ==== Sys2Proof/Machine/State.lean ====
section
/-! DEFINITION. The state of the block and of its interfaces (10_state.md R20 to R41), the reasons a step
can stop, and the state after reset (10_state.md R39, 70_reset_and_hazards.md R240). -/

namespace Sys2Proof.Machine

/-- Transfer direction (00_scope.md R14): `m2d` is bit 0 and the reset value. -/
inductive Dir where
  | m2d | d2m
deriving DecidableEq, Repr

/-- The record `C[ch]` of one channel (10_state.md R21). -/
structure Channel where
  dir : Dir
  enable : Bool
  supdate : Bool
  complete : Bool
  busexc : Bool
  next : Word
  limit : Word
  start : Word
  stop : Word
  savedNext : Word
  savedLimit : Word
  savedStart : Word
  savedStop : Word
  init : Word
  size : Word
deriving DecidableEq, Repr

/-- A channel after reset: every field 0, direction memory to device (10_state.md R39). -/
def Channel.zero : Channel where
  dir := .m2d
  enable := false
  supdate := false
  complete := false
  busexc := false
  next := 0
  limit := 0
  start := 0
  stop := 0
  savedNext := 0
  savedLimit := 0
  savedStart := 0
  savedStop := 0
  init := 0
  size := 0

/-- The staging buffer `S` (10_state.md R28): `count` bytes are staged, oldest first, at the front of
`buf`, which holds `BURST` bytes. -/
structure Staging where
  count : Nat
  buf : List Byte
deriving DecidableEq, Repr

/-- The staging buffer after reset (10_state.md R39): nothing staged, `BURST` zero bytes. -/
def Staging.zero (burst : Nat) : Staging := ⟨0, List.replicate burst 0⟩

/-- Main memory (20_memory.md R50): the bytes that differ from `unlistedByte`, by rising address. -/
abbrev Memory := List Host.Cell

/-- What a byte that no entry lists reads as. DESIGN CHOICE (log 7): the spec gives memory no contents
before a write, and `MemRead` has no fault outcome, so a fixed byte it is. -/
def unlistedByte : Byte := 0

/-- Every address of the list is above `k` (or the list may start anywhere, with `none`), addresses rise
strictly, lie in the 32-bit space, and no entry equals what an unlisted byte reads as. -/
def cellsCanonical : Option Nat → Memory → Bool
  | _, [] => true
  | k, (a, b) :: rest =>
    (match k with
      | none => true
      | some k => decide (k < a)) &&
    decide (a < 2 ^ 32) && b != unlistedByte && cellsCanonical (some a) rest

/-- The canonical form of memory: equal memories are equal lists. -/
def Memory.wf (m : Memory) : Bool := cellsCanonical none m

/-- The memory accessor's answer to one `MemWrite` call (20_memory.md R51). -/
inductive BusAnswer where
  | ok | fault
deriving DecidableEq, Repr

/-- What an operation returns to its caller (30_encoding.md R71, R83): nothing, a register value at the
access's width, or the `(n, bytes)` of a memory read. The MODEL's own output port (log 11). -/
inductive Reply where
  | none
  | byte (v : Byte)
  | word (v : Word)
  | block (n : Word) (bytes : List Byte)
deriving DecidableEq, Repr

/-- The diagnostics of the pseudocode's `Log` calls; "no architectural effect" (00_scope.md R9). -/
inductive LogMsg where
  | unknownChannel (off : Word)
  | noCommand
  | badCommand (c : Command)
  | commitWhileDisabled
  | flushWhileDisabled
  | transferWhileDisabled (ch : Chan)
  | alignment (ch : Chan) (base : Addr)
deriving DecidableEq, Repr

/-- The log classes of 60_exceptions.md R210 (names only, D36). -/
inductive ErrorCode where
  | eUnknownChannel | eBadCommand | eBusFault | eMisconfig
deriving DecidableEq, Repr

/-- A call the block makes to a collaborator (00_scope.md R9, 10_state.md R32), as recorded (log 12).
`MemWrite`, `MemRead`, `DevAvail` and `DevPull` are not recorded: memory and the device's ready bytes
show them. -/
inductive Call where
  | log (m : LogMsg)
  | irqSet (l : IrqLine)
  | irqRelease (l : IrqLine)
  | devInitBuffers (ch : Chan)
  | devHandBack
deriving DecidableEq, Repr

/-- An operation an agent has issued, with the free inputs of its step: the bytes that the storage device
newly has ready, and the answers the memory accessor will give (log 4, 8, 14). -/
structure Request where
  frame : Frame
  feed : List Byte
  oracle : List BusAnswer
deriving DecidableEq, Repr

/-- The state of the machine.

* `chans`, `staging`: the block's own state (10_state.md R21, R28).
* `mem`, `lines`, `ready`: what the model keeps of memory, of the interrupt controller (one level per
  line, 60_exceptions.md R218) and of the storage device (the bytes `DevPull` will give).
* `cfg`: the configuration (10_state.md R31), changed by no step (log 1).
* `oracle`, `draws`, `reply`, `calls`, `pending`: the model's own fields (INVENTORY.md, `## State`). -/
structure State where
  cfg : Config
  chans : PerChan Channel
  staging : Staging
  mem : Memory
  lines : PerChan Bool
  ready : List Byte
  oracle : List BusAnswer
  draws : Nat
  reply : Reply
  calls : List Call
  pending : List Request
deriving DecidableEq, Repr

/-- Reasons the machine stops with a fault: none. "No error in this core terminates the emulated session"
(60_exceptions.md R215) and no operation traps (R210, R220); a bus fault is recorded in the CSR fields and
the machine goes on (R213). Safe: there is nothing to raise. -/
inductive Fault where
deriving DecidableEq, Repr

/-- Reasons an operation gets no meaning. All are safe: the step has no successor, so nothing can be
proved of a run that reaches one (60_exceptions.md R214). -/
inductive Refusal where
  /-- Raised by `exec` for an instruction without a meaning yet. No arm raises it. Safe. -/
  | notModelled (mnemonic : String)
  /-- `Unmodelled(Misaligned)`: a burst commit or a flush on a segment that is not word-aligned, not a
  whole number of bursts long, or too short (42_burst_engine.md R165, R173). Safe. -/
  | misaligned
  /-- `Unmodelled(Underflow)`: a generic transfer whose size or room would be negative
  (43_block_transfer.md R201). Safe. -/
  | underflow
  /-- `Unmodelled(GenericBusFault)`: `MemWrite` faults in a generic memory write (43_block_transfer.md
  R201). Safe. -/
  | genericBusFault
  /-- `Unmodelled(NotGeneric)`: a generic transfer called on `storage` (43_block_transfer.md R190). Safe. -/
  | notGeneric
  /-- `Unmodelled(NoSuchRegister)`: an access code that names no register (40_register_access.md R103).
  Raised by decoding. Safe. -/
  | noSuchRegister
  /-- `Unmodelled(Width)`: a register access at a width other than the register's own
  (40_register_access.md R103). Safe. -/
  | width
  /-- The model's own: a byte frame that spells no operation (log 22). Raised by decoding. Safe. -/
  | badFrame
deriving DecidableEq, Repr

/-- The machine right after reset under a given configuration: R39's table, with the interfaces at the
values their log entries name (log 4, 7, 8, 9, 10, 11, 12, 14). -/
def State.resetWith (c : Config) : State where
  cfg := c
  chans := PerChan.fill Channel.zero
  staging := Staging.zero c.burst
  mem := []
  lines := PerChan.fill false
  ready := []
  oracle := []
  draws := 0
  reply := .none
  calls := []
  pending := []

/-- The machine right after reset under the default configuration (10_state.md R39; log 1, 2). -/
def State.reset : State := State.resetWith Config.default

end Sys2Proof.Machine
end

