-- ==== Sys2Proof/Machine/Flags.lean ====
section
/-! DEFINITION. The bits of the CSR (30_encoding.md R73 to R81): packing the five fields for a read, and
splitting a written value into its direction bit and its command. Every position comes from the
configuration's `Layout` and shifts (log 3). -/

namespace Sys2Proof.Machine

/-- A flag at its bit of a 32-bit register. -/
def bitAt (p : Nat) (f : Bool) : Word := if f then BitVec.twoPow 32 p else 0

/-- Is the direction `D2M` (bit value 1, 00_scope.md R14)? -/
def isD2M : Dir → Bool
  | .m2d => false
  | .d2m => true

/-- `csr_int(ch)`, the packing of the five fields (30_encoding.md R73, R74). Command bits are never
stored, so they read 0 (10_state.md R23). -/
def csrInt (l : Layout) (c : Channel) : Word :=
  bitAt l.busexc c.busexc ||| bitAt l.complete c.complete ||| bitAt l.supdate c.supdate |||
    bitAt l.enable c.enable ||| bitAt l.dir (isD2M c.dir)

/-- The narrow CSR read: the status bits right-shifted into the low byte, with direction placed into its
bit by an OR (30_encoding.md R75, 40_register_access.md R105, 90_conflicts.md C3). -/
def csrNarrow (cfg : Config) (c : Channel) : Byte :=
  (csrInt cfg.layout c >>> cfg.narrowStatusShift).setWidth 8 |||
    (if isD2M c.dir then BitVec.twoPow 8 cfg.narrowDirBit else 0)

/-- The internal write value `w`: a wide value unchanged (30_encoding.md R76), a narrow byte zero-extended
and shifted left by `NARROW_WRITE_SHIFT` (R77). -/
def csrWriteValue (cfg : Config) : CsrValue → Word
  | .wide v => v
  | .narrow b => b.setWidth 32 <<< cfg.narrowWriteShift

/-- The direction bit of an internal write value (41_csr_commands.md R131). -/
def dirBit (l : Layout) (w : Word) : Bool := w.getLsbD l.dir

/-- The combination of the five command bits, as a value of the closed set of 30_encoding.md R79 and R80.
The arguments are the bits `INITBUF`, `RESET`, `CLRCOMPLETE`, `SETSUPDATE` and `SETENABLE`. -/
def commandOfBits (initbuf reset clrcomplete setsupdate setenable : Bool) : Command :=
  match initbuf, reset, clrcomplete, setsupdate, setenable with
  | false, false, false, false, false => .noCommand
  | false, false, false, false, true => .setenable
  | false, false, false, true, false => .unrec02
  | false, false, false, true, true => .setenableSetsupdate
  | false, false, true, false, false => .clrcomplete
  | false, false, true, false, true => .unrec09
  | false, false, true, true, false => .setsupdateClrcomplete
  | false, false, true, true, true => .unrec0B
  | false, true, false, false, false => .reset
  | false, true, false, false, true => .unrec11
  | false, true, false, true, false => .unrec12
  | false, true, false, true, true => .unrec13
  | false, true, true, false, false => .unrec18
  | false, true, true, false, true => .unrec19
  | false, true, true, true, false => .unrec1A
  | false, true, true, true, true => .unrec1B
  | true, false, false, false, false => .initbuf
  | true, false, false, false, true => .unrec21
  | true, false, false, true, false => .unrec22
  | true, false, false, true, true => .unrec23
  | true, false, true, false, false => .unrec28
  | true, false, true, false, true => .unrec29
  | true, false, true, true, false => .unrec2A
  | true, false, true, true, true => .unrec2B
  | true, true, false, false, false => .resetInitbuf
  | true, true, false, false, true => .unrec31
  | true, true, false, true, false => .unrec32
  | true, true, false, true, true => .unrec33
  | true, true, true, false, false => .unrec38
  | true, true, true, false, true => .unrec39
  | true, true, true, true, false => .unrec3A
  | true, true, true, true, true => .unrec3B

/-- The command of an internal write value: "matched against a fixed table of recognized combinations" on
the exact command field, the direction bit and the ignored bits apart (30_encoding.md R78, R81;
41_csr_commands.md R132). -/
def commandOf (l : Layout) (w : Word) : Command :=
  commandOfBits (w.getLsbD l.initbuf) (w.getLsbD l.reset) (w.getLsbD l.clrcomplete)
    (w.getLsbD l.setsupdate) (w.getLsbD l.setenable)

/-- The command that a CSR write value carries. -/
def csrCommand (cfg : Config) (v : CsrValue) : Command := commandOf cfg.layout (csrWriteValue cfg v)

/-- The CSR's own width on the bus (30_encoding.md R72, R84). -/
def csrWidth : Gen → Width
  | .legacy => .byte
  | .current => .word

/-- The encoding a CSR write value has on the bus, none for a width no CSR has. -/
def csrValueOf : BusValue → Option CsrValue
  | .byte b => some (.narrow b)
  | .half _ => none
  | .word v => some (.wide v)

/-- The access width of a CSR write value. -/
def csrValueWidth : CsrValue → Width
  | .wide _ => .word
  | .narrow _ => .byte

end Sys2Proof.Machine
end

