-- ==== Sys2Proof/WellFormed.lean ====
section
/-! DEFINITION. Well-formed operations: a register access is made at its register's own width
(30_encoding.md R72, R82), a CSR write row carries its own command (R79, R80), and a generic transfer is
not called on `storage` and has a 32-bit byte count (43_block_transfer.md R190, R194). The meanings are
defined on the others too. -/

namespace Sys2Proof

/-- A pointer, snapshot, init or size register is 32 bits wide (30_encoding.md R72). -/
def wordWide (w : Width) : Bool := w == .word

/-- A CSR is 8 or 32 bits wide, by generation (30_encoding.md R72); never 16. -/
def csrWide (w : Width) : Bool := w != .half

/-- The written value carries the command (30_encoding.md R78 to R80). -/
def carries (cfg : Config) (v : CsrValue) (c : Command) : Bool := Machine.csrCommand cfg v == c

/-- The well-formed operations under a configuration. -/
def wellFormed (cfg : Config) (i : Instr) : Bool :=
  match i with
  | .rdCsrWide _ => true
  | .rdCsrNarrow _ => true
  | .wrCsr _ v => csrWide v.width
  | .rdSavedNext _ width => wordWide width
  | .wrSavedNext _ v => wordWide v.width
  | .rdSavedLimit _ width => wordWide width
  | .wrSavedLimit _ v => wordWide v.width
  | .rdSavedStart _ width => wordWide width
  | .wrSavedStart _ v => wordWide v.width
  | .rdSavedStop _ width => wordWide width
  | .wrSavedStop _ v => wordWide v.width
  | .rdNext _ width => wordWide width
  | .wrNext _ v => wordWide v.width
  | .rdLimit _ width => wordWide width
  | .wrLimit _ v => wordWide v.width
  | .rdStart _ width => wordWide width
  | .wrStart _ v => wordWide v.width
  | .rdStop _ width => wordWide width
  | .wrStop _ v => wordWide v.width
  | .rdInit _ width => wordWide width
  | .wrInit _ v => wordWide v.width
  | .rdSize _ width => wordWide width
  | .wrSize _ v => wordWide v.width
  | .cmdResetWide _ v => carries cfg (.wide v) .reset
  | .cmdResetNarrow _ b => carries cfg (.narrow b) .reset
  | .cmdInitbufWide _ v => carries cfg (.wide v) .initbuf
  | .cmdInitbufNarrow _ b => carries cfg (.narrow b) .initbuf
  | .cmdResetInitbufWide _ v => carries cfg (.wide v) .resetInitbuf
  | .cmdResetInitbufNarrow _ b => carries cfg (.narrow b) .resetInitbuf
  | .cmdClrcompleteWide _ v => carries cfg (.wide v) .clrcomplete
  | .cmdClrcompleteNarrow _ b => carries cfg (.narrow b) .clrcomplete
  | .cmdSetsupdateClrcompleteWide _ v => carries cfg (.wide v) .setsupdateClrcomplete
  | .cmdSetsupdateClrcompleteNarrow _ b => carries cfg (.narrow b) .setsupdateClrcomplete
  | .cmdSetenableWide _ v => carries cfg (.wide v) .setenable
  | .cmdSetenableNarrow _ b => carries cfg (.narrow b) .setenable
  | .cmdSetenableSetsupdateWide _ v => carries cfg (.wide v) .setenableSetsupdate
  | .cmdSetenableSetsupdateNarrow _ b => carries cfg (.narrow b) .setenableSetsupdate
  | .cmdNoneWide _ v => carries cfg (.wide v) .noCommand
  | .cmdNoneNarrow _ b => carries cfg (.narrow b) .noCommand
  | .cmdUnrec02Wide _ v => carries cfg (.wide v) .unrec02
  | .cmdUnrec02Narrow _ b => carries cfg (.narrow b) .unrec02
  | .cmdUnrec09Wide _ v => carries cfg (.wide v) .unrec09
  | .cmdUnrec09Narrow _ b => carries cfg (.narrow b) .unrec09
  | .cmdUnrec0BWide _ v => carries cfg (.wide v) .unrec0B
  | .cmdUnrec0BNarrow _ b => carries cfg (.narrow b) .unrec0B
  | .cmdUnrec11Wide _ v => carries cfg (.wide v) .unrec11
  | .cmdUnrec11Narrow _ b => carries cfg (.narrow b) .unrec11
  | .cmdUnrec12Wide _ v => carries cfg (.wide v) .unrec12
  | .cmdUnrec12Narrow _ b => carries cfg (.narrow b) .unrec12
  | .cmdUnrec13Wide _ v => carries cfg (.wide v) .unrec13
  | .cmdUnrec13Narrow _ b => carries cfg (.narrow b) .unrec13
  | .cmdUnrec18Wide _ v => carries cfg (.wide v) .unrec18
  | .cmdUnrec18Narrow _ b => carries cfg (.narrow b) .unrec18
  | .cmdUnrec19Wide _ v => carries cfg (.wide v) .unrec19
  | .cmdUnrec19Narrow _ b => carries cfg (.narrow b) .unrec19
  | .cmdUnrec1AWide _ v => carries cfg (.wide v) .unrec1A
  | .cmdUnrec1ANarrow _ b => carries cfg (.narrow b) .unrec1A
  | .cmdUnrec1BWide _ v => carries cfg (.wide v) .unrec1B
  | .cmdUnrec1BNarrow _ b => carries cfg (.narrow b) .unrec1B
  | .cmdUnrec21Wide _ v => carries cfg (.wide v) .unrec21
  | .cmdUnrec21Narrow _ b => carries cfg (.narrow b) .unrec21
  | .cmdUnrec22Wide _ v => carries cfg (.wide v) .unrec22
  | .cmdUnrec22Narrow _ b => carries cfg (.narrow b) .unrec22
  | .cmdUnrec23Wide _ v => carries cfg (.wide v) .unrec23
  | .cmdUnrec23Narrow _ b => carries cfg (.narrow b) .unrec23
  | .cmdUnrec28Wide _ v => carries cfg (.wide v) .unrec28
  | .cmdUnrec28Narrow _ b => carries cfg (.narrow b) .unrec28
  | .cmdUnrec29Wide _ v => carries cfg (.wide v) .unrec29
  | .cmdUnrec29Narrow _ b => carries cfg (.narrow b) .unrec29
  | .cmdUnrec2AWide _ v => carries cfg (.wide v) .unrec2A
  | .cmdUnrec2ANarrow _ b => carries cfg (.narrow b) .unrec2A
  | .cmdUnrec2BWide _ v => carries cfg (.wide v) .unrec2B
  | .cmdUnrec2BNarrow _ b => carries cfg (.narrow b) .unrec2B
  | .cmdUnrec31Wide _ v => carries cfg (.wide v) .unrec31
  | .cmdUnrec31Narrow _ b => carries cfg (.narrow b) .unrec31
  | .cmdUnrec32Wide _ v => carries cfg (.wide v) .unrec32
  | .cmdUnrec32Narrow _ b => carries cfg (.narrow b) .unrec32
  | .cmdUnrec33Wide _ v => carries cfg (.wide v) .unrec33
  | .cmdUnrec33Narrow _ b => carries cfg (.narrow b) .unrec33
  | .cmdUnrec38Wide _ v => carries cfg (.wide v) .unrec38
  | .cmdUnrec38Narrow _ b => carries cfg (.narrow b) .unrec38
  | .cmdUnrec39Wide _ v => carries cfg (.wide v) .unrec39
  | .cmdUnrec39Narrow _ b => carries cfg (.narrow b) .unrec39
  | .cmdUnrec3AWide _ v => carries cfg (.wide v) .unrec3A
  | .cmdUnrec3ANarrow _ b => carries cfg (.narrow b) .unrec3A
  | .cmdUnrec3BWide _ v => carries cfg (.wide v) .unrec3B
  | .cmdUnrec3BNarrow _ b => carries cfg (.narrow b) .unrec3B
  | .devCommit => true
  | .devFlush => true
  | .devMRead ch => ch != .storage
  | .devMWrite ch bytes => ch != .storage && decide (bytes.length < 2 ^ 32)
  | .sysReset => true

end Sys2Proof
end

