-- ==== Sys2Proof/Decode.lean ====
section
/-! DEFINITION. From the bytes of a frame to an operation and back (30_encoding.md R71, R72, R76, R77,
R83). The access code, the register table and the CSR values are the spec's; how a frame lays the operands
of an operation out in bytes is the model's own, since the dispatch layer is out of scope (log 5).

| format | bytes |
|---|---|
| `ra` | access code; width code; `off` (4 bytes); for a write the value (1, 2 or 4 bytes by the width) |
| `csrwWide` | the value (4 bytes); channel index |
| `csrwNarrow` | the value (1 byte); channel index |
| `dev` | 0 = commit; 1 = flush; 2, channel index = memory read; 3, channel index, `N` (4 bytes), `N` bytes = memory write |
| `sys` | 0 = reset |

Multi-byte fields have their low byte first. -/

namespace Sys2Proof

/-- Why a frame spells no operation, by name. -/
inductive DecodeError where
  /-- The access code names no register (30_encoding.md R71, R82). -/
  | noSuchRegister
  /-- A CSR read at a width that no CSR has (30_encoding.md R82). -/
  | width
  /-- The bytes are not a frame of their format (log 22). -/
  | badFrame
deriving DecidableEq, Repr

/-- The refusal of a frame that spells no operation (40_register_access.md R103; log 22). -/
def decodeRefusal : DecodeError → Machine.Refusal
  | .noSuchRegister => .noSuchRegister
  | .width => .width
  | .badFrame => .badFrame

/-! ### Bytes and words -/

/-- Four bytes, low byte first, as a word. -/
def wordOf (b0 b1 b2 b3 : Byte) : Word := b3 ++ b2 ++ b1 ++ b0

/-- Byte `i` of a word, byte 0 the lowest. -/
def byteOf (v : Word) (i : Nat) : Byte := v.extractLsb' (8 * i) 8

/-- The four bytes of a word, low byte first. -/
def bytesOf (v : Word) : List Byte := [byteOf v 0, byteOf v 1, byteOf v 2, byteOf v 3]

/-- The two bytes of a 16-bit value, low byte first. -/
def bytesOfHalf (v : BitVec 16) : List Byte := [v.extractLsb' 0 8, v.extractLsb' 8 8]

/-- The bytes of a written value. -/
def bytesOfValue : BusValue → List Byte
  | .byte b => [b]
  | .half h => bytesOfHalf h
  | .word w => bytesOf w

/-- A written value from its bytes, at a width. -/
def valueOf : Width → List Byte → Option BusValue
  | .byte, [b] => some (.byte b)
  | .half, [b0, b1] => some (.half (b1 ++ b0))
  | .word, [b0, b1, b2, b3] => some (.word (wordOf b0 b1 b2 b3))
  | _, _ => none

/-- The model's code of an access width; 0 is the 32 bits that every register but a narrow CSR has. -/
def widthCode : Width → Byte
  | .word => 0
  | .byte => 1
  | .half => 2

/-- The width of a width code. -/
def widthOfCode (b : Byte) : Option Width :=
  if b = 0 then some .word
  else if b = 1 then some .byte
  else if b = 2 then some .half
  else none

/-- The model's index of a channel: its place in the enumeration of 10_state.md R20. -/
def chanIndex : Chan → Byte
  | .storage => 0
  | .soundOut => 1
  | .opticalDisk => 2
  | .soundIn => 3
  | .printer => 4
  | .serial => 5
  | .dsp => 6
  | .netTx => 7
  | .netRx => 8
  | .video => 9
  | .m2r => 10
  | .r2m => 11

/-- The channel of an index. -/
def chanOfIndex (b : Byte) : Option Chan := Chan.all.find? fun ch => chanIndex ch == b

/-! ### Register accesses -/

/-- The registers of 30_encoding.md R72. -/
inductive Reg where
  | csr | savedNext | savedLimit | savedStart | savedStop
  | next | limit | start | stop | init | size
deriving DecidableEq, Repr

/-- The group of a register (30_encoding.md R72). -/
def regGroup : Reg → RegGroup
  | .csr => .csr
  | .savedNext | .savedLimit | .savedStart | .savedStop => .saved
  | .next | .limit | .start | .stop => .live
  | .init | .size => .initsz

/-- The index of a register within its group (30_encoding.md R72). -/
def regIndex : Reg → BitVec 2
  | .csr | .savedNext | .next | .init => 0
  | .savedLimit | .limit | .size => 1
  | .savedStart | .start => 2
  | .savedStop | .stop => 3

/-- Bits `[2:1]` of the access code (30_encoding.md R71). -/
def groupCode : RegGroup → BitVec 2
  | .csr => 0b00
  | .saved => 0b01
  | .live => 0b10
  | .initsz => 0b11

/-- The register of a group code and an index, `none` where the access code "names no register"
(30_encoding.md R71, R72). -/
def regOf (group index : BitVec 2) : Option Reg :=
  if group = 0b00 then (if index = 0 then some .csr else none)
  else if group = 0b01 then
    (if index = 0 then some .savedNext else if index = 1 then some .savedLimit
     else if index = 2 then some .savedStart else some .savedStop)
  else if group = 0b10 then
    (if index = 0 then some .next else if index = 1 then some .limit
     else if index = 2 then some .start else some .stop)
  else (if index = 0 then some .init else if index = 1 then some .size else none)

/-- The 5-bit access code `index ++ group ++ kind` of a register, as a byte (30_encoding.md R71). -/
def accessCode (r : Reg) (write : Bool) : Byte :=
  (regIndex r ++ groupCode (regGroup r) ++ BitVec.ofBool write).setWidth 8

/-- The register an access code byte names; bits `[7:5]` belong to no access code (30_encoding.md R71). -/
def regOfCode (code : Byte) : Option Reg :=
  if code.extractLsb' 5 3 = 0 then regOf (code.extractLsb' 1 2) (code.extractLsb' 3 2) else none

/-- Bit 0 of the access code: 0 = read, 1 = write (30_encoding.md R71). -/
def isWrite (code : Byte) : Bool := code.getLsbD 0

/-- The read of a register at a width. A CSR read is one of two operations by its width
(30_encoding.md R74, R75). -/
def readInstr (r : Reg) (off : Word) (width : Width) : Except DecodeError Instr :=
  match r with
  | .csr =>
    match width with
    | .word => .ok (.rdCsrWide off)
    | .byte => .ok (.rdCsrNarrow off)
    | .half => .error .width
  | .savedNext => .ok (.rdSavedNext off width)
  | .savedLimit => .ok (.rdSavedLimit off width)
  | .savedStart => .ok (.rdSavedStart off width)
  | .savedStop => .ok (.rdSavedStop off width)
  | .next => .ok (.rdNext off width)
  | .limit => .ok (.rdLimit off width)
  | .start => .ok (.rdStart off width)
  | .stop => .ok (.rdStop off width)
  | .init => .ok (.rdInit off width)
  | .size => .ok (.rdSize off width)

/-- The write of a register (30_encoding.md R72). -/
def writeInstr (r : Reg) (off : Word) (v : BusValue) : Instr :=
  match r with
  | .csr => .wrCsr off v
  | .savedNext => .wrSavedNext off v
  | .savedLimit => .wrSavedLimit off v
  | .savedStart => .wrSavedStart off v
  | .savedStop => .wrSavedStop off v
  | .next => .wrNext off v
  | .limit => .wrLimit off v
  | .start => .wrStart off v
  | .stop => .wrStop off v
  | .init => .wrInit off v
  | .size => .wrSize off v

/-- The operation of a register access frame. The access code comes before everything else
(40_register_access.md R103). -/
def decodeAccess : List Byte → Except DecodeError Instr
  | code :: wc :: o0 :: o1 :: o2 :: o3 :: rest =>
    match regOfCode code with
    | none => .error .noSuchRegister
    | some r =>
      match widthOfCode wc with
      | none => .error .badFrame
      | some width =>
        if isWrite code then
          match valueOf width rest with
          | some v => .ok (writeInstr r (wordOf o0 o1 o2 o3) v)
          | none => .error .badFrame
        else
          match rest with
          | [] => readInstr r (wordOf o0 o1 o2 o3) width
          | _ :: _ => .error .badFrame
  | _ => .error .badFrame

/-- The frame of a register read. -/
def readFrame (r : Reg) (off : Word) (width : Width) : Frame :=
  ⟨.ra, accessCode r false :: widthCode width :: bytesOf off⟩

/-- The frame of a register write. -/
def writeFrame (r : Reg) (off : Word) (v : BusValue) : Frame :=
  ⟨.ra, accessCode r true :: widthCode v.width :: (bytesOf off ++ bytesOfValue v)⟩

/-! ### CSR write values -/

/-- The wide CSR write that carries a command (format `CSRW_WIDE`, 30_encoding.md R76, R79, R80). -/
def wideInstr (c : Command) (ch : Chan) (v : Word) : Instr :=
  match c with
  | .reset => .cmdResetWide ch v
  | .initbuf => .cmdInitbufWide ch v
  | .resetInitbuf => .cmdResetInitbufWide ch v
  | .clrcomplete => .cmdClrcompleteWide ch v
  | .setsupdateClrcomplete => .cmdSetsupdateClrcompleteWide ch v
  | .setenable => .cmdSetenableWide ch v
  | .setenableSetsupdate => .cmdSetenableSetsupdateWide ch v
  | .noCommand => .cmdNoneWide ch v
  | .unrec02 => .cmdUnrec02Wide ch v
  | .unrec09 => .cmdUnrec09Wide ch v
  | .unrec0B => .cmdUnrec0BWide ch v
  | .unrec11 => .cmdUnrec11Wide ch v
  | .unrec12 => .cmdUnrec12Wide ch v
  | .unrec13 => .cmdUnrec13Wide ch v
  | .unrec18 => .cmdUnrec18Wide ch v
  | .unrec19 => .cmdUnrec19Wide ch v
  | .unrec1A => .cmdUnrec1AWide ch v
  | .unrec1B => .cmdUnrec1BWide ch v
  | .unrec21 => .cmdUnrec21Wide ch v
  | .unrec22 => .cmdUnrec22Wide ch v
  | .unrec23 => .cmdUnrec23Wide ch v
  | .unrec28 => .cmdUnrec28Wide ch v
  | .unrec29 => .cmdUnrec29Wide ch v
  | .unrec2A => .cmdUnrec2AWide ch v
  | .unrec2B => .cmdUnrec2BWide ch v
  | .unrec31 => .cmdUnrec31Wide ch v
  | .unrec32 => .cmdUnrec32Wide ch v
  | .unrec33 => .cmdUnrec33Wide ch v
  | .unrec38 => .cmdUnrec38Wide ch v
  | .unrec39 => .cmdUnrec39Wide ch v
  | .unrec3A => .cmdUnrec3AWide ch v
  | .unrec3B => .cmdUnrec3BWide ch v

/-- The narrow CSR write that carries a command (format `CSRW_NARROW`, 30_encoding.md R77, R79, R80). -/
def narrowInstr (c : Command) (ch : Chan) (b : Byte) : Instr :=
  match c with
  | .reset => .cmdResetNarrow ch b
  | .initbuf => .cmdInitbufNarrow ch b
  | .resetInitbuf => .cmdResetInitbufNarrow ch b
  | .clrcomplete => .cmdClrcompleteNarrow ch b
  | .setsupdateClrcomplete => .cmdSetsupdateClrcompleteNarrow ch b
  | .setenable => .cmdSetenableNarrow ch b
  | .setenableSetsupdate => .cmdSetenableSetsupdateNarrow ch b
  | .noCommand => .cmdNoneNarrow ch b
  | .unrec02 => .cmdUnrec02Narrow ch b
  | .unrec09 => .cmdUnrec09Narrow ch b
  | .unrec0B => .cmdUnrec0BNarrow ch b
  | .unrec11 => .cmdUnrec11Narrow ch b
  | .unrec12 => .cmdUnrec12Narrow ch b
  | .unrec13 => .cmdUnrec13Narrow ch b
  | .unrec18 => .cmdUnrec18Narrow ch b
  | .unrec19 => .cmdUnrec19Narrow ch b
  | .unrec1A => .cmdUnrec1ANarrow ch b
  | .unrec1B => .cmdUnrec1BNarrow ch b
  | .unrec21 => .cmdUnrec21Narrow ch b
  | .unrec22 => .cmdUnrec22Narrow ch b
  | .unrec23 => .cmdUnrec23Narrow ch b
  | .unrec28 => .cmdUnrec28Narrow ch b
  | .unrec29 => .cmdUnrec29Narrow ch b
  | .unrec2A => .cmdUnrec2ANarrow ch b
  | .unrec2B => .cmdUnrec2BNarrow ch b
  | .unrec31 => .cmdUnrec31Narrow ch b
  | .unrec32 => .cmdUnrec32Narrow ch b
  | .unrec33 => .cmdUnrec33Narrow ch b
  | .unrec38 => .cmdUnrec38Narrow ch b
  | .unrec39 => .cmdUnrec39Narrow ch b
  | .unrec3A => .cmdUnrec3ANarrow ch b
  | .unrec3B => .cmdUnrec3BNarrow ch b

/-- The operation of a wide CSR write value. -/
def decodeWide (cfg : Config) : List Byte → Except DecodeError Instr
  | [b0, b1, b2, b3, idx] =>
    match chanOfIndex idx with
    | none => .error .badFrame
    | some ch =>
      .ok (wideInstr (Machine.csrCommand cfg (.wide (wordOf b0 b1 b2 b3))) ch (wordOf b0 b1 b2 b3))
  | _ => .error .badFrame

/-- The operation of a narrow CSR write value. -/
def decodeNarrow (cfg : Config) : List Byte → Except DecodeError Instr
  | [b, idx] =>
    match chanOfIndex idx with
    | none => .error .badFrame
    | some ch => .ok (narrowInstr (Machine.csrCommand cfg (.narrow b)) ch b)
  | _ => .error .badFrame

/-- The frame of a wide CSR write value. -/
def wideFrame (ch : Chan) (v : Word) : Frame := ⟨.csrwWide, bytesOf v ++ [chanIndex ch]⟩

/-- The frame of a narrow CSR write value. -/
def narrowFrame (ch : Chan) (b : Byte) : Frame := ⟨.csrwNarrow, [b, chanIndex ch]⟩

/-! ### Device calls and reset -/

/-- The operation of a memory write call, from its channel on (43_block_transfer.md R194). -/
def decodeBlock : List Byte → Except DecodeError Instr
  | idx :: n0 :: n1 :: n2 :: n3 :: bytes =>
    match chanOfIndex idx with
    | none => .error .badFrame
    | some ch =>
      if (wordOf n0 n1 n2 n3).toNat = bytes.length then .ok (.devMWrite ch bytes) else .error .badFrame
  | _ => .error .badFrame

/-- The operation of a device call (30_encoding.md R83). -/
def decodeDevice : List Byte → Except DecodeError Instr
  | [] => .error .badFrame
  | sel :: rest =>
    if sel = 0 then (if rest = [] then .ok .devCommit else .error .badFrame)
    else if sel = 1 then (if rest = [] then .ok .devFlush else .error .badFrame)
    else if sel = 2 then
      match rest with
      | [idx] =>
        match chanOfIndex idx with
        | none => .error .badFrame
        | some ch => .ok (.devMRead ch)
      | _ => .error .badFrame
    else if sel = 3 then decodeBlock rest
    else .error .badFrame

/-- The operation of a system call (30_encoding.md R83). -/
def decodeSystem (bs : List Byte) : Except DecodeError Instr :=
  if bs = [0] then .ok .sysReset else .error .badFrame

/-! ### All formats -/

/-- The operation a frame spells, under a configuration, or the name of what is wrong with it. -/
def decode (cfg : Config) (f : Frame) : Except DecodeError Instr :=
  match f.format with
  | .ra => decodeAccess f.bytes
  | .csrwWide => decodeWide cfg f.bytes
  | .csrwNarrow => decodeNarrow cfg f.bytes
  | .dev => decodeDevice f.bytes
  | .sys => decodeSystem f.bytes

/-- The frame of an operation. -/
def encode (i : Instr) : Frame :=
  match i with
  | .rdCsrWide off => readFrame .csr off .word
  | .rdCsrNarrow off => readFrame .csr off .byte
  | .wrCsr off v => writeFrame .csr off v
  | .rdSavedNext off width => readFrame .savedNext off width
  | .wrSavedNext off v => writeFrame .savedNext off v
  | .rdSavedLimit off width => readFrame .savedLimit off width
  | .wrSavedLimit off v => writeFrame .savedLimit off v
  | .rdSavedStart off width => readFrame .savedStart off width
  | .wrSavedStart off v => writeFrame .savedStart off v
  | .rdSavedStop off width => readFrame .savedStop off width
  | .wrSavedStop off v => writeFrame .savedStop off v
  | .rdNext off width => readFrame .next off width
  | .wrNext off v => writeFrame .next off v
  | .rdLimit off width => readFrame .limit off width
  | .wrLimit off v => writeFrame .limit off v
  | .rdStart off width => readFrame .start off width
  | .wrStart off v => writeFrame .start off v
  | .rdStop off width => readFrame .stop off width
  | .wrStop off v => writeFrame .stop off v
  | .rdInit off width => readFrame .init off width
  | .wrInit off v => writeFrame .init off v
  | .rdSize off width => readFrame .size off width
  | .wrSize off v => writeFrame .size off v
  | .cmdResetWide ch v => wideFrame ch v
  | .cmdResetNarrow ch b => narrowFrame ch b
  | .cmdInitbufWide ch v => wideFrame ch v
  | .cmdInitbufNarrow ch b => narrowFrame ch b
  | .cmdResetInitbufWide ch v => wideFrame ch v
  | .cmdResetInitbufNarrow ch b => narrowFrame ch b
  | .cmdClrcompleteWide ch v => wideFrame ch v
  | .cmdClrcompleteNarrow ch b => narrowFrame ch b
  | .cmdSetsupdateClrcompleteWide ch v => wideFrame ch v
  | .cmdSetsupdateClrcompleteNarrow ch b => narrowFrame ch b
  | .cmdSetenableWide ch v => wideFrame ch v
  | .cmdSetenableNarrow ch b => narrowFrame ch b
  | .cmdSetenableSetsupdateWide ch v => wideFrame ch v
  | .cmdSetenableSetsupdateNarrow ch b => narrowFrame ch b
  | .cmdNoneWide ch v => wideFrame ch v
  | .cmdNoneNarrow ch b => narrowFrame ch b
  | .cmdUnrec02Wide ch v => wideFrame ch v
  | .cmdUnrec02Narrow ch b => narrowFrame ch b
  | .cmdUnrec09Wide ch v => wideFrame ch v
  | .cmdUnrec09Narrow ch b => narrowFrame ch b
  | .cmdUnrec0BWide ch v => wideFrame ch v
  | .cmdUnrec0BNarrow ch b => narrowFrame ch b
  | .cmdUnrec11Wide ch v => wideFrame ch v
  | .cmdUnrec11Narrow ch b => narrowFrame ch b
  | .cmdUnrec12Wide ch v => wideFrame ch v
  | .cmdUnrec12Narrow ch b => narrowFrame ch b
  | .cmdUnrec13Wide ch v => wideFrame ch v
  | .cmdUnrec13Narrow ch b => narrowFrame ch b
  | .cmdUnrec18Wide ch v => wideFrame ch v
  | .cmdUnrec18Narrow ch b => narrowFrame ch b
  | .cmdUnrec19Wide ch v => wideFrame ch v
  | .cmdUnrec19Narrow ch b => narrowFrame ch b
  | .cmdUnrec1AWide ch v => wideFrame ch v
  | .cmdUnrec1ANarrow ch b => narrowFrame ch b
  | .cmdUnrec1BWide ch v => wideFrame ch v
  | .cmdUnrec1BNarrow ch b => narrowFrame ch b
  | .cmdUnrec21Wide ch v => wideFrame ch v
  | .cmdUnrec21Narrow ch b => narrowFrame ch b
  | .cmdUnrec22Wide ch v => wideFrame ch v
  | .cmdUnrec22Narrow ch b => narrowFrame ch b
  | .cmdUnrec23Wide ch v => wideFrame ch v
  | .cmdUnrec23Narrow ch b => narrowFrame ch b
  | .cmdUnrec28Wide ch v => wideFrame ch v
  | .cmdUnrec28Narrow ch b => narrowFrame ch b
  | .cmdUnrec29Wide ch v => wideFrame ch v
  | .cmdUnrec29Narrow ch b => narrowFrame ch b
  | .cmdUnrec2AWide ch v => wideFrame ch v
  | .cmdUnrec2ANarrow ch b => narrowFrame ch b
  | .cmdUnrec2BWide ch v => wideFrame ch v
  | .cmdUnrec2BNarrow ch b => narrowFrame ch b
  | .cmdUnrec31Wide ch v => wideFrame ch v
  | .cmdUnrec31Narrow ch b => narrowFrame ch b
  | .cmdUnrec32Wide ch v => wideFrame ch v
  | .cmdUnrec32Narrow ch b => narrowFrame ch b
  | .cmdUnrec33Wide ch v => wideFrame ch v
  | .cmdUnrec33Narrow ch b => narrowFrame ch b
  | .cmdUnrec38Wide ch v => wideFrame ch v
  | .cmdUnrec38Narrow ch b => narrowFrame ch b
  | .cmdUnrec39Wide ch v => wideFrame ch v
  | .cmdUnrec39Narrow ch b => narrowFrame ch b
  | .cmdUnrec3AWide ch v => wideFrame ch v
  | .cmdUnrec3ANarrow ch b => narrowFrame ch b
  | .cmdUnrec3BWide ch v => wideFrame ch v
  | .cmdUnrec3BNarrow ch b => narrowFrame ch b
  | .devCommit => ⟨.dev, [0]⟩
  | .devFlush => ⟨.dev, [1]⟩
  | .devMRead ch => ⟨.dev, [2, chanIndex ch]⟩
  | .devMWrite ch bytes =>
    ⟨.dev, 3 :: chanIndex ch :: (bytesOf (BitVec.ofNat 32 bytes.length) ++ bytes)⟩
  | .sysReset => ⟨.sys, [0]⟩

/-! ### The words of the opcode table -/

/-- The frame of an opcode table word of `nbits` bits, every operand bit above it 0 (log 6). A word of more
than 8 bits is a wide CSR value. A word of 8 bits is a register access where it is an access code that
names a register, and a narrow CSR value otherwise: the table numbers the two formats alike, and their
words overlap. -/
def tableFrame (nbits w : Nat) : Frame :=
  if 8 < nbits then ⟨.csrwWide, bytesOf (BitVec.ofNat 32 w) ++ [0]⟩
  else
    match regOfCode (BitVec.ofNat 8 w) with
    | some _ =>
      ⟨.ra, BitVec.ofNat 8 w :: 0 :: 0 :: 0 :: 0 :: 0 ::
        (if isWrite (BitVec.ofNat 8 w) then [0, 0, 0, 0] else [])⟩
    | none => ⟨.csrwNarrow, [BitVec.ofNat 8 w, 0]⟩

/-- The generation in which a format is used, where it fixes one (30_encoding.md R76, R77, R84). -/
def formatGen : Format → Option Gen
  | .csrwWide => some .current
  | .csrwNarrow => some .legacy
  | .ra | .dev | .sys => none

/-- The instruction the decoder reads from an opcode table word, under the default configuration. -/
def decodeTableWord (nbits w : Nat) : Option Instr :=
  match decode Config.default (tableFrame nbits w) with
  | .ok i => some i
  | .error _ => none

end Sys2Proof
end

