-- ==== Sys2Proof/Machine/Ops.lean ====
section
/-! DEFINITION. The named operations over channels, memory, interrupt lines, the devices and the staging
buffer: the primitives of 00_scope.md R9, the fault transition (the block's nearest thing to taking an
exception, 42_burst_engine.md R171) and the start of a step. -/

namespace Sys2Proof.Machine

/-! ### Channels -/

/-- `C[ch]`. -/
def State.chan (s : State) (ch : Chan) : Channel := s.chans.get ch

/-- The state with `C[ch]` replaced. -/
def State.setChan (s : State) (ch : Chan) (c : Channel) : State :=
  { s with chans := s.chans.set ch c }

/-- The state with `C[ch]` changed by a function. -/
def State.modChan (s : State) (ch : Chan) (f : Channel → Channel) : State :=
  s.setChan ch (f (s.chan ch))

/-- `Decode(off)`: the channel whose offset it is, searched in the order of 10_state.md R20, or `none` for
`Unknown` (40_register_access.md R100). -/
def decodeChan (cfg : Config) (off : Word) : Option Chan :=
  Chan.all.find? fun ch => cfg.chanOff.get ch == off

/-! ### Calls to collaborators -/

/-- Record a call to a collaborator (log 12). -/
def State.note (s : State) (c : Call) : State := { s with calls := c :: s.calls }

/-- `Log(msg)`: "a diagnostic with no architectural effect" (00_scope.md R9). -/
def State.logMsg (s : State) (m : LogMsg) : State := s.note (.log m)

/-- The log class of a diagnostic (60_exceptions.md R210, D36); `none` for those that are no error. -/
def logCode : LogMsg → Option ErrorCode
  | .unknownChannel _ => some .eUnknownChannel
  | .badCommand _ => some .eBadCommand
  | .alignment _ _ => some .eMisconfig
  | .noCommand | .commitWhileDisabled | .flushWhileDisabled | .transferWhileDisabled _ => none

/-- `IrqSet(line)` and `IrqRelease(line)`: write the line's level, "no-ops when `line = none`"
(00_scope.md R9, 60_exceptions.md R218). -/
def State.driveLine (s : State) (l : Option IrqLine) (level : Bool) : State :=
  match l with
  | none => s
  | some line =>
    { s with
      lines := s.lines.set line.owner level
      calls := (if level then Call.irqSet line else Call.irqRelease line) :: s.calls }

/-- `IrqSet(IRQ(ch))`. -/
def State.irqSet (s : State) (ch : Chan) : State := s.driveLine (s.cfg.irq.get ch) true

/-- `IrqRelease(IRQ(ch))`. -/
def State.irqRelease (s : State) (ch : Chan) : State := s.driveLine (s.cfg.irq.get ch) false

/-- `L(line)`, the level of a line (60_exceptions.md R218). -/
def State.level (s : State) (l : IrqLine) : Bool := s.lines.get l.owner

/-- `DevInitBuffers(ch)`: the device resets its transfer counters, which are the device's own state
(41_csr_commands.md R134, 10_state.md R32). -/
def State.devInitBuffers (s : State) (ch : Chan) : State := s.note (.devInitBuffers ch)

/-- `DevHandBack()`: "returns control to the device-side protocol" (00_scope.md R9). -/
def State.devHandBack (s : State) : State := s.note .devHandBack

/-- Return a value, or nothing, to the operation's caller. -/
def State.answer (s : State) (r : Reply) : State := { s with reply := r }

/-! ### Memory -/

/-- The byte at a key, in a list whose keys rise. -/
def cellRead : Memory → Nat → Byte
  | [], _ => unlistedByte
  | (k, b) :: rest, a => if a < k then unlistedByte else if a = k then b else cellRead rest a

/-- Put a byte at the front of a list, unless it is what an unlisted byte reads as. -/
def cellCons (a : Nat) (b : Byte) (m : Memory) : Memory :=
  if b = unlistedByte then m else (a, b) :: m

/-- The list with the byte at a key replaced, still in canonical form. -/
def cellWrite : Memory → Nat → Byte → Memory
  | [], a, b => cellCons a b []
  | (k, c) :: rest, a, b =>
    if a < k then cellCons a b ((k, c) :: rest)
    else if a = k then cellCons a b rest
    else (k, c) :: cellWrite rest a b

/-- The byte at an address. -/
def readByte (m : Memory) (a : Addr) : Byte := cellRead m a.toNat

/-- Memory with the byte at an address replaced. -/
def writeByte (m : Memory) (a : Addr) (b : Byte) : Memory := cellWrite m a.toNat b

/-- `MemRead(addr, n)`: the bytes at `addr`, `addr+1`, …, in ascending order, modulo 2^32
(20_memory.md R50). It has no fault outcome. -/
def readBytes (m : Memory) (a : Addr) : Nat → List Byte
  | 0 => []
  | n + 1 => readByte m a :: readBytes m (a + 1) n

/-- `bytes[i]` to `addr + i`, in ascending order, modulo 2^32 (20_memory.md R50, R52, R60). -/
def writeBytes (m : Memory) (a : Addr) : List Byte → Memory
  | [] => m
  | b :: bs => writeBytes (writeByte m a b) (a + 1) bs

/-- What a `MemWrite` answers, with the state after it (20_memory.md R50). -/
inductive WriteResult where
  | ok (s : State)
  | busFault (a : Addr) (s : State)
deriving DecidableEq, Repr

/-- `MemWrite(addr, n, bytes)`: all its bytes are written, or the accessor faults and none is
(20_memory.md R50, R56). The accessor's answer is a free input, the next of `oracle`; past the end of the
list it is `ok` (R51, log 8). -/
def memWrite (a : Addr) (bs : List Byte) (s : State) : WriteResult :=
  match s.oracle with
  | [] => .ok { s with mem := writeBytes s.mem a bs }
  | .ok :: rest => .ok { s with mem := writeBytes s.mem a bs, oracle := rest }
  | .fault :: rest => .busFault a { s with oracle := rest }

/-! ### The staging buffer -/

/-- `S.buf[i]`. An index outside the buffer, which only a state that breaks the invariant of 10_state.md
R28 and R36 can ask for, reads 0 (log 15). -/
def stagedByte (st : Staging) (i : Nat) : Byte := st.buf.getD i 0

/-- `S.buf[S.count] <- b; S.count <- S.count + 1` (42_burst_engine.md R163). -/
def stagePush (st : Staging) (b : Byte) : Staging := ⟨st.count + 1, st.buf.set st.count b⟩

/-- Drop the `k` oldest staged bytes: `S.buf[i] <- S.buf[i + k]` for the ones that stay, bytes beyond them
left stale (42_burst_engine.md R173). -/
def stageDrop (st : Staging) (k : Nat) : Staging :=
  ⟨st.count - k, (st.buf.drop k).take (st.count - k) ++ st.buf.drop (st.count - k)⟩

/-! ### Bus faults -/

/-- `FaultTransition()`, the one record of a bus fault: `enable <- 0`, `complete <- 1`, `busexc <- 1`, and
the line raised when `FAULT_IRQ`; pointers, staging and memory stay (42_burst_engine.md R171, R174,
60_exceptions.md R213). -/
def faultTransition (s : State) : State :=
  let s := s.modChan .storage fun c => { c with enable := false, complete := true, busexc := true }
  if s.cfg.faultIrq then s.irqSet .storage else s

/-- Software's recovery from a fault is no operation of its own: it is the CSR write `CMD.RESET_INITBUF`,
new pointers and `CMD.SETENABLE` (60_exceptions.md R221). This is what its first write does to the
channel's fields; `busexc` stays (41_csr_commands.md R133, R135). -/
def resetFields (c : Channel) : Channel :=
  { c with complete := false, supdate := false, enable := false, dir := .m2d }

/-! ### The start of a step -/

/-- A step takes the oldest pending request: the device's newly ready bytes join those it had, and the
request's oracle answers the memory calls of this step (log 4, 8, 14). -/
def State.begin (s : State) (r : Request) (rest : List Request) : State :=
  { s with pending := rest, ready := s.ready ++ r.feed, oracle := r.oracle }

end Sys2Proof.Machine
end

