-- ==== Sys2Proof/Machine/Operands.lean ====
section
/-! DEFINITION. The operand side of a register access: `RegAccess` (40_register_access.md R103) for a read
and for a write, and the pointers a generic transfer starts from (43_block_transfer.md R191, R192). -/

namespace Sys2Proof.Machine

/-- What one operation of the block answers. -/
abbrev Result := Host.Outcome State Fault Refusal

/-- The reply 0 at a width (40_register_access.md R102: "A read returns 0 at the access's width"). -/
def zeroReply : Width → Reply
  | .byte => .byte 0
  | .half => .none
  | .word => .word 0

/-- `RegAccess` of a read: the width check, the offset decoder, the `Unknown` case, then the register's
own rule, which gives the reply (40_register_access.md R103, R102, R126). -/
def regRead (own width : Width) (off : Word) (read : Channel → Reply) (s : State) : Result :=
  if width = own then
    match decodeChan s.cfg off with
    | none => .next ((s.logMsg (.unknownChannel off)).answer (zeroReply own))
    | some ch => .next (s.answer (read (s.chan ch)))
  else .refused .width

/-- `RegAccess` of a write to a 32-bit register: the width check, the offset decoder, the `Unknown` case,
then the register's own rule, which stores into the channel (40_register_access.md R103, R102). -/
def regWrite (off : Word) (v : BusValue) (store : Word → Channel → Channel) (s : State) : Result :=
  match v with
  | .word w =>
    match decodeChan s.cfg off with
    | none => .next ((s.logMsg (.unknownChannel off)).answer .none)
    | some ch => .next ((s.modChan ch (store w)).answer .none)
  | .byte _ | .half _ => .refused .width

/-- The base address of both generic transfers: "`init` if non-zero, else `next`" (43_block_transfer.md
R191). -/
def baseOf (c : Channel) : Addr := if c.init ≠ 0 then c.init else c.next

/-- `READ_SIZE_FROM(ch, TURBO)` (43_block_transfer.md R192). -/
def sizeFrom (cfg : Config) (ch : Chan) : SizeFrom :=
  if cfg.turbo then (cfg.readSizeFrom.get ch).turbo else (cfg.readSizeFrom.get ch).plain

/-- The pointer `X` that the size of a memory read is measured from (43_block_transfer.md R192). -/
def sizePointer (cfg : Config) (ch : Chan) (c : Channel) : Addr :=
  match sizeFrom cfg ch with
  | .init => c.init
  | .next => c.next
  | .base => baseOf c

end Sys2Proof.Machine
end

