-- ==== Sys2Proof/Machine/BurstEngine.lean ====
section
/-! DEFINITION. The storage channel's burst engine: the commit pass (42_burst_engine.md R160 to R172) and
the flush (R173, R174). -/

namespace Sys2Proof.Machine

/-- A burst as a 32-bit pointer advance (42_burst_engine.md R164; modulo 2^32, 00_scope.md R8). -/
def burstWord (cfg : Config) : Word := BitVec.ofNat 32 cfg.burst

/-- Fill: `while S.count < BURST and DevAvail(): S.buf[S.count] <- DevPull(); S.count <- S.count + 1`,
over the bytes the device has ready (42_burst_engine.md R163). What is left is left with the device. -/
def fillFrom (burst : Nat) : List Byte → Staging → Staging × List Byte
  | [], st => (st, [])
  | b :: rest, st =>
    if st.count < burst then fillFrom burst rest (stagePush st b) else (st, b :: rest)

/-- The fill of a pass (42_burst_engine.md R163). -/
def State.fill (s : State) : State :=
  { s with
    staging := (fillFrom s.cfg.burst s.ready s.staging).1
    ready := (fillFrom s.cfg.burst s.ready s.staging).2 }

/-- The staged bytes of word `w` of a burst: `S.buf[4w .. 4w+3]` (42_burst_engine.md R164). -/
def stagedWord (st : Staging) (w : Nat) : List Byte :=
  [stagedByte st (wordBytes * w), stagedByte st (wordBytes * w + 1),
    stagedByte st (wordBytes * w + 2), stagedByte st (wordBytes * w + 3)]

/-- The word writes of a burst, `left` of them still to come, the next one being word `w`, in ascending
order; a fault ends them and keeps the words already written (42_burst_engine.md R164, R171). -/
def writeWords (base : Addr) : (left : Nat) → (w : Nat) → State → WriteResult
  | 0, _, s => .ok s
  | left + 1, w, s =>
    match memWrite (base + BitVec.ofNat 32 (wordBytes * w)) (stagedWord s.staging w) s with
    | .busFault a s' => .busFault a s'
    | .ok s' => writeWords base left (w + 1) s'

/-- `AtLimit()`: complete, raise the line, then reload when chaining is armed (one-shot) and disable
otherwise (42_burst_engine.md R167, R168, R169). -/
def atLimit (s : State) : State :=
  ((s.modChan .storage fun c => { c with complete := true }).irqSet .storage).modChan .storage fun c =>
    if c.supdate then { c with next := c.start, limit := c.stop, supdate := false }
    else { c with enable := false }

/-- Is the segment one the model gives no commit a meaning on (42_burst_engine.md R165)? -/
def commitMisaligned (cfg : Config) (c : Channel) : Bool :=
  c.next.toNat % wordBytes != 0 || (c.limit - c.next).toNat % cfg.burst != 0

/-- Can a burst be committed: staging holds exactly one, and `next <u limit` (42_burst_engine.md R164,
R170)? -/
def canCommit (s : State) : Bool :=
  s.staging.count == s.cfg.burst && (s.chan .storage).next.ult (s.chan .storage).limit

/-- After every word of a burst has succeeded: `next <- next + BURST`, `S.count <- 0` (42_burst_engine.md
R164). -/
def burstDone (s : State) : State :=
  let s := s.modChan .storage fun c => { c with next := c.next + burstWord s.cfg }
  { s with staging := { s.staging with count := 0 } }

/-- What one turn of the pass's loop ends with. -/
inductive Turn where
  | leave (s : State)
  | again (s : State)
  | refuse (r : Refusal)
deriving DecidableEq, Repr

/-- After the fill: the burst commit if one can be made, its completion test and the repeat test
(42_burst_engine.md R164 to R167, R170, R171). -/
def commitTurn (s : State) : Turn :=
  if canCommit s then
    if commitMisaligned s.cfg (s.chan .storage) then .refuse .misaligned
    else
      match writeWords (s.chan .storage).next (s.cfg.burst / wordBytes) 0 s with
      | .busFault _ s' => .leave (faultTransition s')
      | .ok s' =>
        let s' := burstDone s'
        let c := s'.chan .storage
        if c.next = c.limit then .leave (atLimit s')
        else if (c.limit - c.next).toNat < s'.cfg.burst then .leave s'
        else .again s'
  else .leave s

/-- The loop of the pass. The first argument bounds the turns; each turn but the first takes a whole burst
from the device's ready bytes, so `commitPass` gives it more than the pass can use (log 16). -/
def commitLoop : Nat → State → Result
  | 0, s => .next s
  | turns + 1, s =>
    match commitTurn s.fill with
    | .leave s' => .next s'
    | .again s' => commitLoop turns s'
    | .refuse r => .refused r

/-- Is a device operation on a channel turned away: `ENABLE_GUARD and C.enable = 0` (42_burst_engine.md
R162, 43_block_transfer.md R190)? -/
def guarded (s : State) (ch : Chan) : Bool := s.cfg.enableGuard && !(s.chan ch).enable

/-- `CommitPass()` (42_burst_engine.md R161): the guard (R162), the loop, and the hand-back, exactly once
in every pass that is not refused (R172). -/
def commitPass (s : State) : Result :=
  if guarded s .storage then .next ((s.logMsg .commitWhileDisabled).devHandBack)
  else
    match commitLoop (s.ready.length + 2) s with
    | .next s' => .next s'.devHandBack
    | .fault r => .fault r
    | .refused r => .refused r

/-- How many bytes of a flush word are free draws (42_burst_engine.md R173). -/
def flushPad (st : Staging) : Nat := wordBytes - min wordBytes st.count

/-- Byte `i` of a flush word: a staged byte, or a free draw where there is none (42_burst_engine.md R173,
log 9). -/
def flushByte (s : State) (i : Nat) : Byte :=
  if i < s.staging.count then stagedByte s.staging i
  else Config.drawByte (s.draws + (i - s.staging.count))

/-- The word a flush writes (42_burst_engine.md R173). -/
def flushWord (s : State) : List Byte :=
  [flushByte s 0, flushByte s 1, flushByte s 2, flushByte s 3]

/-- Is the segment one the model gives no flush a meaning on (42_burst_engine.md R173)? -/
def flushMisaligned (c : Channel) : Bool :=
  c.next.toNat % wordBytes != 0 || decide ((c.limit - c.next).toNat < wordBytes)

/-- After the word of a flush has succeeded: `next <- next + WORD`, and the bytes it took leave the staging
buffer (42_burst_engine.md R173). -/
def flushDone (s : State) : State :=
  let s := s.modChan .storage fun c => { c with next := c.next + BitVec.ofNat 32 wordBytes }
  { s with staging := stageDrop s.staging (min wordBytes s.staging.count) }

/-- `Flush()` (42_burst_engine.md R173, R174). It makes no completion test and no hand-back. -/
def flush (s : State) : Result :=
  if guarded s .storage then .next (s.logMsg .flushWhileDisabled)
  else if s.staging.count = 0 || !(s.chan .storage).next.ult (s.chan .storage).limit then .next s
  else if flushMisaligned (s.chan .storage) then .refused .misaligned
  else
    match memWrite (s.chan .storage).next (flushWord s)
        { s with draws := s.draws + flushPad s.staging } with
    | .busFault _ s' => .next (faultTransition s')
    | .ok s' => .next (flushDone s')

/-- `DEV.COMMIT` (42_burst_engine.md R161; opcode_table.json row `DEV.COMMIT`). It returns nothing. -/
def execDevCommit (s : State) : Result := commitPass (s.answer .none)

/-- `DEV.FLUSH` (42_burst_engine.md R173; opcode_table.json row `DEV.FLUSH`). It returns nothing. -/
def execDevFlush (s : State) : Result := flush (s.answer .none)

end Sys2Proof.Machine
end

