-- ==== Sys2Proof/Machine/BlockTransfer.lean ====
section
/-! DEFINITION. The generic block transfer of every channel but storage: memory read and memory write
(43_block_transfer.md R190 to R201). -/

namespace Sys2Proof.Machine

/-- The alignment diagnostic of a generic transfer. `ALIGN(ch)` "affects only logged diagnostics"
(43_block_transfer.md R200); that the diagnostic is about the base address is the model's reading
(log 19). -/
def alignmentLog (ch : Chan) (base : Addr) (s : State) : State :=
  if base.toNat % s.cfg.align.get ch = 0 then s else s.logMsg (.alignment ch base)

/-- The completion of a generic memory read: `complete` and `supdate` set, the line raised
(43_block_transfer.md R193). No pointer changes. -/
def readDone (ch : Chan) (s : State) : State :=
  (s.modChan ch fun c => { c with complete := true, supdate := true }).irqSet ch

/-- `MemReadXfer(ch)` (43_block_transfer.md R190 to R193). -/
def memReadXfer (ch : Chan) (s : State) : Result :=
  if ch = .storage then .refused .notGeneric
  else if guarded s ch then
    .next ((s.logMsg (.transferWhileDisabled ch)).answer (.block 0 []))
  else
    let c := s.chan ch
    let base := baseOf c
    let x := sizePointer s.cfg ch c
    if c.limit.ult x then .refused .underflow
    else
      let n := c.limit - x
      .next ((readDone ch (alignmentLog ch base s)).answer (.block n (readBytes s.mem base n.toNat)))

/-- The channel after a generic memory write of `n` bytes, `nb` being `next(before)`: `init` cleared, the
snapshots at the extent, `next` and `limit` reloaded unless chaining is armed on a channel other than
`netRx`, `complete` set (43_block_transfer.md R196 to R199). -/
def writeDoneFields (ch : Chan) (nb n : Word) (c : Channel) : Channel :=
  let c := { c with init := 0, savedNext := nb, savedLimit := nb + n, complete := true }
  if c.supdate = false ∨ ch = .netRx then { c with next := c.start, limit := c.stop } else c

/-- The completion of a generic memory write (43_block_transfer.md R196 to R199). -/
def writeDone (ch : Chan) (n : Word) (s : State) : State :=
  (s.modChan ch fun c => writeDoneFields ch c.next n c).irqSet ch

/-- The memory writes of a generic memory write: at `init` with the split at `limit` when `init` is not 0
(43_block_transfer.md R195), else at `next` with no split (R194). `none` is the underflow of R201. -/
def blockWrites (c : Channel) (bytes : List Byte) (s : State) : Option WriteResult :=
  if c.init ≠ 0 then
    if c.limit.ult c.init then none
    else
      let room := (c.limit - c.init).toNat
      if room < bytes.length then
        match memWrite c.init (bytes.take room) s with
        | .busFault a s' => some (.busFault a s')
        | .ok s' => some (memWrite c.start (bytes.drop room) s')
      else some (memWrite c.init bytes s)
  else some (memWrite c.next bytes s)

/-- `MemWriteXfer(ch, N, bytes)`, with `N` the number of bytes (43_block_transfer.md R190, R194 to
R201). -/
def memWriteXfer (ch : Chan) (bytes : List Byte) (s : State) : Result :=
  if ch = .storage then .refused .notGeneric
  else if guarded s ch then .next (s.logMsg (.transferWhileDisabled ch))
  else
    let c := s.chan ch
    match blockWrites c bytes (alignmentLog ch (baseOf c) s) with
    | none => .refused .underflow
    | some (.busFault _ _) => .refused .genericBusFault
    | some (.ok s') => .next (writeDone ch (BitVec.ofNat 32 bytes.length) s')

/-- `DEV.MREAD` (43_block_transfer.md R193; opcode_table.json row `DEV.MREAD`). It returns
`(n, bytes)`. -/
def execDevMRead (ch : Chan) (s : State) : Result := memReadXfer ch s

/-- `DEV.MWRITE` (43_block_transfer.md R194; opcode_table.json row `DEV.MWRITE`). It returns nothing. -/
def execDevMWrite (ch : Chan) (bytes : List Byte) (s : State) : Result :=
  memWriteXfer ch bytes (s.answer .none)

end Sys2Proof.Machine
end

