-- ==== Sys2Proof/Machine/CsrCommands.lean ====
section
/-! DEFINITION. The CSR write and its commands (41_csr_commands.md R130 to R144). -/

namespace Sys2Proof.Machine

/-- Direction, un-gated: a set `DIR` bit stores `D2M` before the command and whatever the command is; a
clear one changes nothing (41_csr_commands.md R131, 90_conflicts.md C4). -/
def storeDir (ch : Chan) (w : Word) (s : State) : State :=
  if dirBit s.cfg.layout w then s.modChan ch fun c => { c with dir := .d2m } else s

/-- `DoReset(ch)`: clear `complete`, `supdate`, `enable` and direction; `busexc`, pointers and staging stay
(41_csr_commands.md R133). -/
def doReset (ch : Chan) (s : State) : State := s.modChan ch resetFields

/-- `DoInitBuf(ch)`: only a write to `storage` empties the staging buffer, whose bytes stay; every channel's
device is asked to reset its counters (41_csr_commands.md R134). -/
def doInitBuf (ch : Chan) (s : State) : State :=
  (if ch = .storage then { s with staging := { s.staging with count := 0 } } else s).devInitBuffers ch

/-- The commit pass that two commands trigger on the storage channel, and only there
(41_csr_commands.md R136, R137). -/
def passOnStorage (ch : Chan) (s : State) : Result :=
  if ch = .storage then commitPass s else .next s

/-! ### The command rules -/

/-- `CMD.RESET` (41_csr_commands.md R133). -/
def cmdReset (ch : Chan) (s : State) : Result := .next (doReset ch s)

/-- `CMD.INITBUF` (41_csr_commands.md R134). -/
def cmdInitbuf (ch : Chan) (s : State) : Result := .next (doInitBuf ch s)

/-- `CMD.RESET_INITBUF`: both (41_csr_commands.md R135). -/
def cmdResetInitbuf (ch : Chan) (s : State) : Result := .next (doInitBuf ch (doReset ch s))

/-- `CMD.CLRCOMPLETE`: `complete` is cleared before the pass (41_csr_commands.md R136). -/
def cmdClrcomplete (ch : Chan) (s : State) : Result :=
  passOnStorage ch (s.modChan ch fun c => { c with complete := false })

/-- `CMD.SETSUPDATE_CLRCOMPLETE`: chaining is armed and `complete` cleared before the pass
(41_csr_commands.md R137). -/
def cmdSetsupdateClrcomplete (ch : Chan) (s : State) : Result :=
  passOnStorage ch (s.modChan ch fun c => { c with supdate := true, complete := false })

/-- `CMD.SETENABLE` (41_csr_commands.md R138). -/
def cmdSetenable (ch : Chan) (s : State) : Result :=
  .next (s.modChan ch fun c => { c with enable := true })

/-- `CMD.SETENABLE_SETSUPDATE` (41_csr_commands.md R139). -/
def cmdSetenableSetsupdate (ch : Chan) (s : State) : Result :=
  .next (s.modChan ch fun c => { c with enable := true, supdate := true })

/-- `CMD.NONE`: logged, no command effect (41_csr_commands.md R140). -/
def cmdNone (_ch : Chan) (s : State) : Result := .next (s.logMsg .noCommand)

/-- `CMD.UNRECOGNIZED`: logged, no command effect; a combination is not split into parts
(41_csr_commands.md R141). -/
def cmdUnrecognized (c : Command) (_ch : Chan) (s : State) : Result := .next (s.logMsg (.badCommand c))

/-- The effect of a command: "The match is on the exact value, so exactly one of rules R133 to R141
applies" (41_csr_commands.md R132). -/
def commandEffect (c : Command) (ch : Chan) (s : State) : Result :=
  match c with
  | .reset => cmdReset ch s
  | .initbuf => cmdInitbuf ch s
  | .resetInitbuf => cmdResetInitbuf ch s
  | .clrcomplete => cmdClrcomplete ch s
  | .setsupdateClrcomplete => cmdSetsupdateClrcomplete ch s
  | .setenable => cmdSetenable ch s
  | .setenableSetsupdate => cmdSetenableSetsupdate ch s
  | .noCommand => cmdNone ch s
  | .unrec02 => cmdUnrecognized .unrec02 ch s
  | .unrec09 => cmdUnrecognized .unrec09 ch s
  | .unrec0B => cmdUnrecognized .unrec0B ch s
  | .unrec11 => cmdUnrecognized .unrec11 ch s
  | .unrec12 => cmdUnrecognized .unrec12 ch s
  | .unrec13 => cmdUnrecognized .unrec13 ch s
  | .unrec18 => cmdUnrecognized .unrec18 ch s
  | .unrec19 => cmdUnrecognized .unrec19 ch s
  | .unrec1A => cmdUnrecognized .unrec1A ch s
  | .unrec1B => cmdUnrecognized .unrec1B ch s
  | .unrec21 => cmdUnrecognized .unrec21 ch s
  | .unrec22 => cmdUnrecognized .unrec22 ch s
  | .unrec23 => cmdUnrecognized .unrec23 ch s
  | .unrec28 => cmdUnrecognized .unrec28 ch s
  | .unrec29 => cmdUnrecognized .unrec29 ch s
  | .unrec2A => cmdUnrecognized .unrec2A ch s
  | .unrec2B => cmdUnrecognized .unrec2B ch s
  | .unrec31 => cmdUnrecognized .unrec31 ch s
  | .unrec32 => cmdUnrecognized .unrec32 ch s
  | .unrec33 => cmdUnrecognized .unrec33 ch s
  | .unrec38 => cmdUnrecognized .unrec38 ch s
  | .unrec39 => cmdUnrecognized .unrec39 ch s
  | .unrec3A => cmdUnrecognized .unrec3A ch s
  | .unrec3B => cmdUnrecognized .unrec3B ch s

/-- The whole CSR write to a decoded channel, given its command's effect: the width check
(40_register_access.md R103), then normalisation, direction, the command with its commit pass, and last the
release of the channel's line, in that order (41_csr_commands.md R130, R142, R143). A refused pass refuses
the whole write (R130). The release comes after every pass, one that a fault ended included (log 13). -/
def csrWrite (ch : Chan) (v : CsrValue) (effect : State → Result) (s : State) : Result :=
  if csrValueWidth v = csrWidth s.cfg.gen then
    match effect (storeDir ch (csrWriteValue s.cfg v) (s.answer .none)) with
    | .next s' => .next (s'.irqRelease ch)
    | .fault r => .fault r
    | .refused r => .refused r
  else .refused .width

/-- `WR.CSR` (41_csr_commands.md R130, R144; opcode_table.json row `WR.CSR`): the width check, the offset
decoder, the discarded write to `Unknown`, then the CSR write with the command its value carries. -/
def execWrCsr (off : Word) (v : BusValue) (s : State) : Result :=
  match csrValueOf v with
  | none => .refused .width
  | some cv =>
    if csrValueWidth cv = csrWidth s.cfg.gen then
      match decodeChan s.cfg off with
      | none => .next ((s.logMsg (.unknownChannel off)).answer .none)
      | some ch => csrWrite ch cv (commandEffect (csrCommand s.cfg cv) ch) s
    else .refused .width

/-! ### The command rows of the opcode table, one meaning each -/

/-- `CMD.RESET`, wide (41_csr_commands.md R133). -/
def execCmdResetWide (ch : Chan) (v : Word) (s : State) : Result :=
  csrWrite ch (.wide v) (cmdReset ch) s

/-- `CMD.RESET`, narrow (41_csr_commands.md R133). -/
def execCmdResetNarrow (ch : Chan) (b : Byte) (s : State) : Result :=
  csrWrite ch (.narrow b) (cmdReset ch) s

/-- `CMD.INITBUF`, wide (41_csr_commands.md R134). -/
def execCmdInitbufWide (ch : Chan) (v : Word) (s : State) : Result :=
  csrWrite ch (.wide v) (cmdInitbuf ch) s

/-- `CMD.INITBUF`, narrow (41_csr_commands.md R134). -/
def execCmdInitbufNarrow (ch : Chan) (b : Byte) (s : State) : Result :=
  csrWrite ch (.narrow b) (cmdInitbuf ch) s

/-- `CMD.RESET_INITBUF`, wide (41_csr_commands.md R135). -/
def execCmdResetInitbufWide (ch : Chan) (v : Word) (s : State) : Result :=
  csrWrite ch (.wide v) (cmdResetInitbuf ch) s

/-- `CMD.RESET_INITBUF`, narrow (41_csr_commands.md R135). -/
def execCmdResetInitbufNarrow (ch : Chan) (b : Byte) (s : State) : Result :=
  csrWrite ch (.narrow b) (cmdResetInitbuf ch) s

/-- `CMD.CLRCOMPLETE`, wide (41_csr_commands.md R136). -/
def execCmdClrcompleteWide (ch : Chan) (v : Word) (s : State) : Result :=
  csrWrite ch (.wide v) (cmdClrcomplete ch) s

/-- `CMD.CLRCOMPLETE`, narrow (41_csr_commands.md R136). -/
def execCmdClrcompleteNarrow (ch : Chan) (b : Byte) (s : State) : Result :=
  csrWrite ch (.narrow b) (cmdClrcomplete ch) s

/-- `CMD.SETSUPDATE_CLRCOMPLETE`, wide (41_csr_commands.md R137). -/
def execCmdSetsupdateClrcompleteWide (ch : Chan) (v : Word) (s : State) : Result :=
  csrWrite ch (.wide v) (cmdSetsupdateClrcomplete ch) s

/-- `CMD.SETSUPDATE_CLRCOMPLETE`, narrow (41_csr_commands.md R137). -/
def execCmdSetsupdateClrcompleteNarrow (ch : Chan) (b : Byte) (s : State) : Result :=
  csrWrite ch (.narrow b) (cmdSetsupdateClrcomplete ch) s

/-- `CMD.SETENABLE`, wide (41_csr_commands.md R138). -/
def execCmdSetenableWide (ch : Chan) (v : Word) (s : State) : Result :=
  csrWrite ch (.wide v) (cmdSetenable ch) s

/-- `CMD.SETENABLE`, narrow (41_csr_commands.md R138). -/
def execCmdSetenableNarrow (ch : Chan) (b : Byte) (s : State) : Result :=
  csrWrite ch (.narrow b) (cmdSetenable ch) s

/-- `CMD.SETENABLE_SETSUPDATE`, wide (41_csr_commands.md R139). -/
def execCmdSetenableSetsupdateWide (ch : Chan) (v : Word) (s : State) : Result :=
  csrWrite ch (.wide v) (cmdSetenableSetsupdate ch) s

/-- `CMD.SETENABLE_SETSUPDATE`, narrow (41_csr_commands.md R139). -/
def execCmdSetenableSetsupdateNarrow (ch : Chan) (b : Byte) (s : State) : Result :=
  csrWrite ch (.narrow b) (cmdSetenableSetsupdate ch) s

/-- `CMD.NONE`, wide (41_csr_commands.md R140). -/
def execCmdNoneWide (ch : Chan) (v : Word) (s : State) : Result :=
  csrWrite ch (.wide v) (cmdNone ch) s

/-- `CMD.NONE`, narrow (41_csr_commands.md R140). -/
def execCmdNoneNarrow (ch : Chan) (b : Byte) (s : State) : Result :=
  csrWrite ch (.narrow b) (cmdNone ch) s

/-- `CMD.UNRECOGNIZED.0x02`, wide (41_csr_commands.md R141). -/
def execCmdUnrec02Wide (ch : Chan) (v : Word) (s : State) : Result :=
  csrWrite ch (.wide v) (cmdUnrecognized .unrec02 ch) s

/-- `CMD.UNRECOGNIZED.0x02`, narrow (41_csr_commands.md R141). -/
def execCmdUnrec02Narrow (ch : Chan) (b : Byte) (s : State) : Result :=
  csrWrite ch (.narrow b) (cmdUnrecognized .unrec02 ch) s

/-- `CMD.UNRECOGNIZED.0x09`, wide (41_csr_commands.md R141). -/
def execCmdUnrec09Wide (ch : Chan) (v : Word) (s : State) : Result :=
  csrWrite ch (.wide v) (cmdUnrecognized .unrec09 ch) s

/-- `CMD.UNRECOGNIZED.0x09`, narrow (41_csr_commands.md R141). -/
def execCmdUnrec09Narrow (ch : Chan) (b : Byte) (s : State) : Result :=
  csrWrite ch (.narrow b) (cmdUnrecognized .unrec09 ch) s

/-- `CMD.UNRECOGNIZED.0x0B`, wide (41_csr_commands.md R141). -/
def execCmdUnrec0BWide (ch : Chan) (v : Word) (s : State) : Result :=
  csrWrite ch (.wide v) (cmdUnrecognized .unrec0B ch) s

/-- `CMD.UNRECOGNIZED.0x0B`, narrow (41_csr_commands.md R141). -/
def execCmdUnrec0BNarrow (ch : Chan) (b : Byte) (s : State) : Result :=
  csrWrite ch (.narrow b) (cmdUnrecognized .unrec0B ch) s

/-- `CMD.UNRECOGNIZED.0x11`, wide (41_csr_commands.md R141). -/
def execCmdUnrec11Wide (ch : Chan) (v : Word) (s : State) : Result :=
  csrWrite ch (.wide v) (cmdUnrecognized .unrec11 ch) s

/-- `CMD.UNRECOGNIZED.0x11`, narrow (41_csr_commands.md R141). -/
def execCmdUnrec11Narrow (ch : Chan) (b : Byte) (s : State) : Result :=
  csrWrite ch (.narrow b) (cmdUnrecognized .unrec11 ch) s

/-- `CMD.UNRECOGNIZED.0x12`, wide (41_csr_commands.md R141). -/
def execCmdUnrec12Wide (ch : Chan) (v : Word) (s : State) : Result :=
  csrWrite ch (.wide v) (cmdUnrecognized .unrec12 ch) s

/-- `CMD.UNRECOGNIZED.0x12`, narrow (41_csr_commands.md R141). -/
def execCmdUnrec12Narrow (ch : Chan) (b : Byte) (s : State) : Result :=
  csrWrite ch (.narrow b) (cmdUnrecognized .unrec12 ch) s

/-- `CMD.UNRECOGNIZED.0x13`, wide (41_csr_commands.md R141). -/
def execCmdUnrec13Wide (ch : Chan) (v : Word) (s : State) : Result :=
  csrWrite ch (.wide v) (cmdUnrecognized .unrec13 ch) s

/-- `CMD.UNRECOGNIZED.0x13`, narrow (41_csr_commands.md R141). -/
def execCmdUnrec13Narrow (ch : Chan) (b : Byte) (s : State) : Result :=
  csrWrite ch (.narrow b) (cmdUnrecognized .unrec13 ch) s

/-- `CMD.UNRECOGNIZED.0x18`, wide (41_csr_commands.md R141). -/
def execCmdUnrec18Wide (ch : Chan) (v : Word) (s : State) : Result :=
  csrWrite ch (.wide v) (cmdUnrecognized .unrec18 ch) s

/-- `CMD.UNRECOGNIZED.0x18`, narrow (41_csr_commands.md R141). -/
def execCmdUnrec18Narrow (ch : Chan) (b : Byte) (s : State) : Result :=
  csrWrite ch (.narrow b) (cmdUnrecognized .unrec18 ch) s

/-- `CMD.UNRECOGNIZED.0x19`, wide (41_csr_commands.md R141). -/
def execCmdUnrec19Wide (ch : Chan) (v : Word) (s : State) : Result :=
  csrWrite ch (.wide v) (cmdUnrecognized .unrec19 ch) s

/-- `CMD.UNRECOGNIZED.0x19`, narrow (41_csr_commands.md R141). -/
def execCmdUnrec19Narrow (ch : Chan) (b : Byte) (s : State) : Result :=
  csrWrite ch (.narrow b) (cmdUnrecognized .unrec19 ch) s

/-- `CMD.UNRECOGNIZED.0x1A`, wide (41_csr_commands.md R141). -/
def execCmdUnrec1AWide (ch : Chan) (v : Word) (s : State) : Result :=
  csrWrite ch (.wide v) (cmdUnrecognized .unrec1A ch) s

/-- `CMD.UNRECOGNIZED.0x1A`, narrow (41_csr_commands.md R141). -/
def execCmdUnrec1ANarrow (ch : Chan) (b : Byte) (s : State) : Result :=
  csrWrite ch (.narrow b) (cmdUnrecognized .unrec1A ch) s

/-- `CMD.UNRECOGNIZED.0x1B`, wide (41_csr_commands.md R141). -/
def execCmdUnrec1BWide (ch : Chan) (v : Word) (s : State) : Result :=
  csrWrite ch (.wide v) (cmdUnrecognized .unrec1B ch) s

/-- `CMD.UNRECOGNIZED.0x1B`, narrow (41_csr_commands.md R141). -/
def execCmdUnrec1BNarrow (ch : Chan) (b : Byte) (s : State) : Result :=
  csrWrite ch (.narrow b) (cmdUnrecognized .unrec1B ch) s

/-- `CMD.UNRECOGNIZED.0x21`, wide (41_csr_commands.md R141). -/
def execCmdUnrec21Wide (ch : Chan) (v : Word) (s : State) : Result :=
  csrWrite ch (.wide v) (cmdUnrecognized .unrec21 ch) s

/-- `CMD.UNRECOGNIZED.0x21`, narrow (41_csr_commands.md R141). -/
def execCmdUnrec21Narrow (ch : Chan) (b : Byte) (s : State) : Result :=
  csrWrite ch (.narrow b) (cmdUnrecognized .unrec21 ch) s

/-- `CMD.UNRECOGNIZED.0x22`, wide (41_csr_commands.md R141). -/
def execCmdUnrec22Wide (ch : Chan) (v : Word) (s : State) : Result :=
  csrWrite ch (.wide v) (cmdUnrecognized .unrec22 ch) s

/-- `CMD.UNRECOGNIZED.0x22`, narrow (41_csr_commands.md R141). -/
def execCmdUnrec22Narrow (ch : Chan) (b : Byte) (s : State) : Result :=
  csrWrite ch (.narrow b) (cmdUnrecognized .unrec22 ch) s

/-- `CMD.UNRECOGNIZED.0x23`, wide (41_csr_commands.md R141). -/
def execCmdUnrec23Wide (ch : Chan) (v : Word) (s : State) : Result :=
  csrWrite ch (.wide v) (cmdUnrecognized .unrec23 ch) s

/-- `CMD.UNRECOGNIZED.0x23`, narrow (41_csr_commands.md R141). -/
def execCmdUnrec23Narrow (ch : Chan) (b : Byte) (s : State) : Result :=
  csrWrite ch (.narrow b) (cmdUnrecognized .unrec23 ch) s

/-- `CMD.UNRECOGNIZED.0x28`, wide (41_csr_commands.md R141). -/
def execCmdUnrec28Wide (ch : Chan) (v : Word) (s : State) : Result :=
  csrWrite ch (.wide v) (cmdUnrecognized .unrec28 ch) s

/-- `CMD.UNRECOGNIZED.0x28`, narrow (41_csr_commands.md R141). -/
def execCmdUnrec28Narrow (ch : Chan) (b : Byte) (s : State) : Result :=
  csrWrite ch (.narrow b) (cmdUnrecognized .unrec28 ch) s

/-- `CMD.UNRECOGNIZED.0x29`, wide (41_csr_commands.md R141). -/
def execCmdUnrec29Wide (ch : Chan) (v : Word) (s : State) : Result :=
  csrWrite ch (.wide v) (cmdUnrecognized .unrec29 ch) s

/-- `CMD.UNRECOGNIZED.0x29`, narrow (41_csr_commands.md R141). -/
def execCmdUnrec29Narrow (ch : Chan) (b : Byte) (s : State) : Result :=
  csrWrite ch (.narrow b) (cmdUnrecognized .unrec29 ch) s

/-- `CMD.UNRECOGNIZED.0x2A`, wide (41_csr_commands.md R141). -/
def execCmdUnrec2AWide (ch : Chan) (v : Word) (s : State) : Result :=
  csrWrite ch (.wide v) (cmdUnrecognized .unrec2A ch) s

/-- `CMD.UNRECOGNIZED.0x2A`, narrow (41_csr_commands.md R141). -/
def execCmdUnrec2ANarrow (ch : Chan) (b : Byte) (s : State) : Result :=
  csrWrite ch (.narrow b) (cmdUnrecognized .unrec2A ch) s

/-- `CMD.UNRECOGNIZED.0x2B`, wide (41_csr_commands.md R141). -/
def execCmdUnrec2BWide (ch : Chan) (v : Word) (s : State) : Result :=
  csrWrite ch (.wide v) (cmdUnrecognized .unrec2B ch) s

/-- `CMD.UNRECOGNIZED.0x2B`, narrow (41_csr_commands.md R141). -/
def execCmdUnrec2BNarrow (ch : Chan) (b : Byte) (s : State) : Result :=
  csrWrite ch (.narrow b) (cmdUnrecognized .unrec2B ch) s

/-- `CMD.UNRECOGNIZED.0x31`, wide (41_csr_commands.md R141). -/
def execCmdUnrec31Wide (ch : Chan) (v : Word) (s : State) : Result :=
  csrWrite ch (.wide v) (cmdUnrecognized .unrec31 ch) s

/-- `CMD.UNRECOGNIZED.0x31`, narrow (41_csr_commands.md R141). -/
def execCmdUnrec31Narrow (ch : Chan) (b : Byte) (s : State) : Result :=
  csrWrite ch (.narrow b) (cmdUnrecognized .unrec31 ch) s

/-- `CMD.UNRECOGNIZED.0x32`, wide (41_csr_commands.md R141). -/
def execCmdUnrec32Wide (ch : Chan) (v : Word) (s : State) : Result :=
  csrWrite ch (.wide v) (cmdUnrecognized .unrec32 ch) s

/-- `CMD.UNRECOGNIZED.0x32`, narrow (41_csr_commands.md R141). -/
def execCmdUnrec32Narrow (ch : Chan) (b : Byte) (s : State) : Result :=
  csrWrite ch (.narrow b) (cmdUnrecognized .unrec32 ch) s

/-- `CMD.UNRECOGNIZED.0x33`, wide (41_csr_commands.md R141). -/
def execCmdUnrec33Wide (ch : Chan) (v : Word) (s : State) : Result :=
  csrWrite ch (.wide v) (cmdUnrecognized .unrec33 ch) s

/-- `CMD.UNRECOGNIZED.0x33`, narrow (41_csr_commands.md R141). -/
def execCmdUnrec33Narrow (ch : Chan) (b : Byte) (s : State) : Result :=
  csrWrite ch (.narrow b) (cmdUnrecognized .unrec33 ch) s

/-- `CMD.UNRECOGNIZED.0x38`, wide (41_csr_commands.md R141). -/
def execCmdUnrec38Wide (ch : Chan) (v : Word) (s : State) : Result :=
  csrWrite ch (.wide v) (cmdUnrecognized .unrec38 ch) s

/-- `CMD.UNRECOGNIZED.0x38`, narrow (41_csr_commands.md R141). -/
def execCmdUnrec38Narrow (ch : Chan) (b : Byte) (s : State) : Result :=
  csrWrite ch (.narrow b) (cmdUnrecognized .unrec38 ch) s

/-- `CMD.UNRECOGNIZED.0x39`, wide (41_csr_commands.md R141). -/
def execCmdUnrec39Wide (ch : Chan) (v : Word) (s : State) : Result :=
  csrWrite ch (.wide v) (cmdUnrecognized .unrec39 ch) s

/-- `CMD.UNRECOGNIZED.0x39`, narrow (41_csr_commands.md R141). -/
def execCmdUnrec39Narrow (ch : Chan) (b : Byte) (s : State) : Result :=
  csrWrite ch (.narrow b) (cmdUnrecognized .unrec39 ch) s

/-- `CMD.UNRECOGNIZED.0x3A`, wide (41_csr_commands.md R141). -/
def execCmdUnrec3AWide (ch : Chan) (v : Word) (s : State) : Result :=
  csrWrite ch (.wide v) (cmdUnrecognized .unrec3A ch) s

/-- `CMD.UNRECOGNIZED.0x3A`, narrow (41_csr_commands.md R141). -/
def execCmdUnrec3ANarrow (ch : Chan) (b : Byte) (s : State) : Result :=
  csrWrite ch (.narrow b) (cmdUnrecognized .unrec3A ch) s

/-- `CMD.UNRECOGNIZED.0x3B`, wide (41_csr_commands.md R141). -/
def execCmdUnrec3BWide (ch : Chan) (v : Word) (s : State) : Result :=
  csrWrite ch (.wide v) (cmdUnrecognized .unrec3B ch) s

/-- `CMD.UNRECOGNIZED.0x3B`, narrow (41_csr_commands.md R141). -/
def execCmdUnrec3BNarrow (ch : Chan) (b : Byte) (s : State) : Result :=
  csrWrite ch (.narrow b) (cmdUnrecognized .unrec3B ch) s

end Sys2Proof.Machine
end

