-- ==== Sys2Proof/Machine/RegisterAccess.lean ====
section
/-! DEFINITION. The register reads and the plain register writes (40_register_access.md R104 to R126).
`WR.CSR` is in `CsrCommands.lean`. -/

namespace Sys2Proof.Machine

/-- `RD.CSR` (wide): the five fields packed (40_register_access.md R104). A 32-bit CSR read on a legacy
machine is at the wrong width (R103). -/
def execRdCsrWide (off : Word) (s : State) : Result :=
  regRead (csrWidth s.cfg.gen) .word off (fun c => .word (csrInt s.cfg.layout c)) s

/-- `RD.CSR` (narrow): the status byte with direction in its bit (40_register_access.md R105). An 8-bit CSR
read on a current machine is at the wrong width (R103). -/
def execRdCsrNarrow (off : Word) (s : State) : Result :=
  regRead (csrWidth s.cfg.gen) .byte off (fun c => .byte (csrNarrow s.cfg c)) s

/-- `RD.SAVED_NEXT`: the register, verbatim (40_register_access.md R106). -/
def execRdSavedNext (off : Word) (width : Width) (s : State) : Result :=
  regRead .word width off (fun c => .word c.savedNext) s

/-- `WR.SAVED_NEXT`: store, with no other effect (40_register_access.md R107). -/
def execWrSavedNext (off : Word) (v : BusValue) (s : State) : Result :=
  regWrite off v (fun w c => { c with savedNext := w }) s

/-- `RD.SAVED_LIMIT`: the register, verbatim (40_register_access.md R108). -/
def execRdSavedLimit (off : Word) (width : Width) (s : State) : Result :=
  regRead .word width off (fun c => .word c.savedLimit) s

/-- `WR.SAVED_LIMIT`: store, with no other effect (40_register_access.md R109). -/
def execWrSavedLimit (off : Word) (v : BusValue) (s : State) : Result :=
  regWrite off v (fun w c => { c with savedLimit := w }) s

/-- `RD.SAVED_START`: the register, verbatim (40_register_access.md R110). -/
def execRdSavedStart (off : Word) (width : Width) (s : State) : Result :=
  regRead .word width off (fun c => .word c.savedStart) s

/-- `WR.SAVED_START`: store, with no other effect (40_register_access.md R111). -/
def execWrSavedStart (off : Word) (v : BusValue) (s : State) : Result :=
  regWrite off v (fun w c => { c with savedStart := w }) s

/-- `RD.SAVED_STOP`: the register, verbatim (40_register_access.md R112). -/
def execRdSavedStop (off : Word) (width : Width) (s : State) : Result :=
  regRead .word width off (fun c => .word c.savedStop) s

/-- `WR.SAVED_STOP`: store, with no other effect (40_register_access.md R113). -/
def execWrSavedStop (off : Word) (v : BusValue) (s : State) : Result :=
  regWrite off v (fun w c => { c with savedStop := w }) s

/-- `RD.NEXT`: the register, verbatim (40_register_access.md R114). -/
def execRdNext (off : Word) (width : Width) (s : State) : Result :=
  regRead .word width off (fun c => .word c.next) s

/-- `WR.NEXT`: store, with no other effect (40_register_access.md R115). -/
def execWrNext (off : Word) (v : BusValue) (s : State) : Result :=
  regWrite off v (fun w c => { c with next := w }) s

/-- `RD.LIMIT`: the register, verbatim (40_register_access.md R116). -/
def execRdLimit (off : Word) (width : Width) (s : State) : Result :=
  regRead .word width off (fun c => .word c.limit) s

/-- `WR.LIMIT`: store, with no other effect (40_register_access.md R117). -/
def execWrLimit (off : Word) (v : BusValue) (s : State) : Result :=
  regWrite off v (fun w c => { c with limit := w }) s

/-- `RD.START`: the register, verbatim (40_register_access.md R118). -/
def execRdStart (off : Word) (width : Width) (s : State) : Result :=
  regRead .word width off (fun c => .word c.start) s

/-- `WR.START`: store, with no other effect (40_register_access.md R119). -/
def execWrStart (off : Word) (v : BusValue) (s : State) : Result :=
  regWrite off v (fun w c => { c with start := w }) s

/-- `RD.STOP`: the register, verbatim (40_register_access.md R120). -/
def execRdStop (off : Word) (width : Width) (s : State) : Result :=
  regRead .word width off (fun c => .word c.stop) s

/-- `WR.STOP`: store, with no other effect (40_register_access.md R121). -/
def execWrStop (off : Word) (v : BusValue) (s : State) : Result :=
  regWrite off v (fun w c => { c with stop := w }) s

/-- `RD.INIT`: the register, verbatim (40_register_access.md R122). -/
def execRdInit (off : Word) (width : Width) (s : State) : Result :=
  regRead .word width off (fun c => .word c.init) s

/-- `WR.INIT`: store `init`, and seed `next` with the same value (40_register_access.md R123). -/
def execWrInit (off : Word) (v : BusValue) (s : State) : Result :=
  regWrite off v (fun w c => { c with init := w, next := w }) s

/-- `RD.SIZE`: the register, verbatim (40_register_access.md R124). -/
def execRdSize (off : Word) (width : Width) (s : State) : Result :=
  regRead .word width off (fun c => .word c.size) s

/-- `WR.SIZE`: store, with no other effect (40_register_access.md R125). -/
def execWrSize (off : Word) (v : BusValue) (s : State) : Result :=
  regWrite off v (fun w c => { c with size := w }) s

end Sys2Proof.Machine
end

