-- ==== Sys2Proof/Machine/SystemReset.lean ====
section
/-! DEFINITION. System reset (70_reset_and_hazards.md R240, R241). -/

namespace Sys2Proof.Machine

/-- `SYS.RESET`: every field of every channel 0, the staging buffer empty and zeroed. It makes no memory
access, calls no device and drives no interrupt line (70_reset_and_hazards.md R240, R241). -/
def systemReset (s : State) : State :=
  { s with chans := PerChan.fill Channel.zero, staging := Staging.zero s.cfg.burst }

/-- `SYS.RESET` (opcode_table.json row `SYS.RESET`). It returns nothing. -/
def execSysReset (s : State) : Result := .next (systemReset (s.answer .none))

end Sys2Proof.Machine
end

