-- ==== Sys2Proof/Machine/Dispatch.lean ====
section
/-! DEFINITION. One arm per constructor of `Instr`, each one direct call of its meaning. -/

namespace Sys2Proof.Machine

def exec (i : Instr) (s : State) : Host.Outcome State Fault Refusal :=
  match i with
  | .rdCsrWide off => Sys2Proof.Machine.execRdCsrWide off s
  | .rdCsrNarrow off => Sys2Proof.Machine.execRdCsrNarrow off s
  | .wrCsr off v => Sys2Proof.Machine.execWrCsr off v s
  | .rdSavedNext off width => Sys2Proof.Machine.execRdSavedNext off width s
  | .wrSavedNext off v => Sys2Proof.Machine.execWrSavedNext off v s
  | .rdSavedLimit off width => Sys2Proof.Machine.execRdSavedLimit off width s
  | .wrSavedLimit off v => Sys2Proof.Machine.execWrSavedLimit off v s
  | .rdSavedStart off width => Sys2Proof.Machine.execRdSavedStart off width s
  | .wrSavedStart off v => Sys2Proof.Machine.execWrSavedStart off v s
  | .rdSavedStop off width => Sys2Proof.Machine.execRdSavedStop off width s
  | .wrSavedStop off v => Sys2Proof.Machine.execWrSavedStop off v s
  | .rdNext off width => Sys2Proof.Machine.execRdNext off width s
  | .wrNext off v => Sys2Proof.Machine.execWrNext off v s
  | .rdLimit off width => Sys2Proof.Machine.execRdLimit off width s
  | .wrLimit off v => Sys2Proof.Machine.execWrLimit off v s
  | .rdStart off width => Sys2Proof.Machine.execRdStart off width s
  | .wrStart off v => Sys2Proof.Machine.execWrStart off v s
  | .rdStop off width => Sys2Proof.Machine.execRdStop off width s
  | .wrStop off v => Sys2Proof.Machine.execWrStop off v s
  | .rdInit off width => Sys2Proof.Machine.execRdInit off width s
  | .wrInit off v => Sys2Proof.Machine.execWrInit off v s
  | .rdSize off width => Sys2Proof.Machine.execRdSize off width s
  | .wrSize off v => Sys2Proof.Machine.execWrSize off v s
  | .cmdResetWide ch v => Sys2Proof.Machine.execCmdResetWide ch v s
  | .cmdResetNarrow ch b => Sys2Proof.Machine.execCmdResetNarrow ch b s
  | .cmdInitbufWide ch v => Sys2Proof.Machine.execCmdInitbufWide ch v s
  | .cmdInitbufNarrow ch b => Sys2Proof.Machine.execCmdInitbufNarrow ch b s
  | .cmdResetInitbufWide ch v => Sys2Proof.Machine.execCmdResetInitbufWide ch v s
  | .cmdResetInitbufNarrow ch b => Sys2Proof.Machine.execCmdResetInitbufNarrow ch b s
  | .cmdClrcompleteWide ch v => Sys2Proof.Machine.execCmdClrcompleteWide ch v s
  | .cmdClrcompleteNarrow ch b => Sys2Proof.Machine.execCmdClrcompleteNarrow ch b s
  | .cmdSetsupdateClrcompleteWide ch v => Sys2Proof.Machine.execCmdSetsupdateClrcompleteWide ch v s
  | .cmdSetsupdateClrcompleteNarrow ch b => Sys2Proof.Machine.execCmdSetsupdateClrcompleteNarrow ch b s
  | .cmdSetenableWide ch v => Sys2Proof.Machine.execCmdSetenableWide ch v s
  | .cmdSetenableNarrow ch b => Sys2Proof.Machine.execCmdSetenableNarrow ch b s
  | .cmdSetenableSetsupdateWide ch v => Sys2Proof.Machine.execCmdSetenableSetsupdateWide ch v s
  | .cmdSetenableSetsupdateNarrow ch b => Sys2Proof.Machine.execCmdSetenableSetsupdateNarrow ch b s
  | .cmdNoneWide ch v => Sys2Proof.Machine.execCmdNoneWide ch v s
  | .cmdNoneNarrow ch b => Sys2Proof.Machine.execCmdNoneNarrow ch b s
  | .cmdUnrec02Wide ch v => Sys2Proof.Machine.execCmdUnrec02Wide ch v s
  | .cmdUnrec02Narrow ch b => Sys2Proof.Machine.execCmdUnrec02Narrow ch b s
  | .cmdUnrec09Wide ch v => Sys2Proof.Machine.execCmdUnrec09Wide ch v s
  | .cmdUnrec09Narrow ch b => Sys2Proof.Machine.execCmdUnrec09Narrow ch b s
  | .cmdUnrec0BWide ch v => Sys2Proof.Machine.execCmdUnrec0BWide ch v s
  | .cmdUnrec0BNarrow ch b => Sys2Proof.Machine.execCmdUnrec0BNarrow ch b s
  | .cmdUnrec11Wide ch v => Sys2Proof.Machine.execCmdUnrec11Wide ch v s
  | .cmdUnrec11Narrow ch b => Sys2Proof.Machine.execCmdUnrec11Narrow ch b s
  | .cmdUnrec12Wide ch v => Sys2Proof.Machine.execCmdUnrec12Wide ch v s
  | .cmdUnrec12Narrow ch b => Sys2Proof.Machine.execCmdUnrec12Narrow ch b s
  | .cmdUnrec13Wide ch v => Sys2Proof.Machine.execCmdUnrec13Wide ch v s
  | .cmdUnrec13Narrow ch b => Sys2Proof.Machine.execCmdUnrec13Narrow ch b s
  | .cmdUnrec18Wide ch v => Sys2Proof.Machine.execCmdUnrec18Wide ch v s
  | .cmdUnrec18Narrow ch b => Sys2Proof.Machine.execCmdUnrec18Narrow ch b s
  | .cmdUnrec19Wide ch v => Sys2Proof.Machine.execCmdUnrec19Wide ch v s
  | .cmdUnrec19Narrow ch b => Sys2Proof.Machine.execCmdUnrec19Narrow ch b s
  | .cmdUnrec1AWide ch v => Sys2Proof.Machine.execCmdUnrec1AWide ch v s
  | .cmdUnrec1ANarrow ch b => Sys2Proof.Machine.execCmdUnrec1ANarrow ch b s
  | .cmdUnrec1BWide ch v => Sys2Proof.Machine.execCmdUnrec1BWide ch v s
  | .cmdUnrec1BNarrow ch b => Sys2Proof.Machine.execCmdUnrec1BNarrow ch b s
  | .cmdUnrec21Wide ch v => Sys2Proof.Machine.execCmdUnrec21Wide ch v s
  | .cmdUnrec21Narrow ch b => Sys2Proof.Machine.execCmdUnrec21Narrow ch b s
  | .cmdUnrec22Wide ch v => Sys2Proof.Machine.execCmdUnrec22Wide ch v s
  | .cmdUnrec22Narrow ch b => Sys2Proof.Machine.execCmdUnrec22Narrow ch b s
  | .cmdUnrec23Wide ch v => Sys2Proof.Machine.execCmdUnrec23Wide ch v s
  | .cmdUnrec23Narrow ch b => Sys2Proof.Machine.execCmdUnrec23Narrow ch b s
  | .cmdUnrec28Wide ch v => Sys2Proof.Machine.execCmdUnrec28Wide ch v s
  | .cmdUnrec28Narrow ch b => Sys2Proof.Machine.execCmdUnrec28Narrow ch b s
  | .cmdUnrec29Wide ch v => Sys2Proof.Machine.execCmdUnrec29Wide ch v s
  | .cmdUnrec29Narrow ch b => Sys2Proof.Machine.execCmdUnrec29Narrow ch b s
  | .cmdUnrec2AWide ch v => Sys2Proof.Machine.execCmdUnrec2AWide ch v s
  | .cmdUnrec2ANarrow ch b => Sys2Proof.Machine.execCmdUnrec2ANarrow ch b s
  | .cmdUnrec2BWide ch v => Sys2Proof.Machine.execCmdUnrec2BWide ch v s
  | .cmdUnrec2BNarrow ch b => Sys2Proof.Machine.execCmdUnrec2BNarrow ch b s
  | .cmdUnrec31Wide ch v => Sys2Proof.Machine.execCmdUnrec31Wide ch v s
  | .cmdUnrec31Narrow ch b => Sys2Proof.Machine.execCmdUnrec31Narrow ch b s
  | .cmdUnrec32Wide ch v => Sys2Proof.Machine.execCmdUnrec32Wide ch v s
  | .cmdUnrec32Narrow ch b => Sys2Proof.Machine.execCmdUnrec32Narrow ch b s
  | .cmdUnrec33Wide ch v => Sys2Proof.Machine.execCmdUnrec33Wide ch v s
  | .cmdUnrec33Narrow ch b => Sys2Proof.Machine.execCmdUnrec33Narrow ch b s
  | .cmdUnrec38Wide ch v => Sys2Proof.Machine.execCmdUnrec38Wide ch v s
  | .cmdUnrec38Narrow ch b => Sys2Proof.Machine.execCmdUnrec38Narrow ch b s
  | .cmdUnrec39Wide ch v => Sys2Proof.Machine.execCmdUnrec39Wide ch v s
  | .cmdUnrec39Narrow ch b => Sys2Proof.Machine.execCmdUnrec39Narrow ch b s
  | .cmdUnrec3AWide ch v => Sys2Proof.Machine.execCmdUnrec3AWide ch v s
  | .cmdUnrec3ANarrow ch b => Sys2Proof.Machine.execCmdUnrec3ANarrow ch b s
  | .cmdUnrec3BWide ch v => Sys2Proof.Machine.execCmdUnrec3BWide ch v s
  | .cmdUnrec3BNarrow ch b => Sys2Proof.Machine.execCmdUnrec3BNarrow ch b s
  | .devCommit => Sys2Proof.Machine.execDevCommit s
  | .devFlush => Sys2Proof.Machine.execDevFlush s
  | .devMRead ch => Sys2Proof.Machine.execDevMRead ch s
  | .devMWrite ch bytes => Sys2Proof.Machine.execDevMWrite ch bytes s
  | .sysReset => Sys2Proof.Machine.execSysReset s

end Sys2Proof.Machine
end

