-- ==== Sys2Proof/Machine/Step.lean ====
section
/-! DEFINITION. One step: the oldest pending operation, decoded and run (00_scope.md R5, R10; log 4). -/

namespace Sys2Proof.Machine

/-- One atomic step of the agent whose operation comes next (00_scope.md R10). With no operation pending
nothing happens: "The block is passive" (70_reset_and_hazards.md R242, log 4). -/
def step (s : State) : Host.Outcome State Fault Refusal :=
  match s.pending with
  | [] => .next s
  | r :: rest =>
    match decode s.cfg r.frame with
    | .ok i => exec i (s.begin r rest)
    | .error e => .refused (decodeRefusal e)

/-- The state with the instruction of an opcode table word as its next pending operation. A CSR value of
format `CSRW_WIDE` or `CSRW_NARROW` belongs to one machine generation (opcode_table.json `gen`), so its
frame also selects that generation (log 6). -/
def State.withFetchWord (s : State) (nbits w : Nat) : State :=
  { s with
    cfg := { s.cfg with gen := (formatGen (tableFrame nbits w).format).getD s.cfg.gen }
    pending := ⟨tableFrame nbits w, [], s.oracle⟩ :: s.pending }

end Sys2Proof.Machine
end

