-- ==== Sys2Proof/Safety.lean ====
section
/-! DEFINITION. What statements speak of: the kinds of operation, what an operation leaves unchanged, the
invariant of the machine, and a safe run (one that no operation refuses). -/

namespace Sys2Proof.Machine

/-- The kinds of operation (30_encoding.md R70): register read, register write, CSR write with its command
known, device call, reset. -/
inductive Kind where
  | read (r : Reg) (off : Word) (width : Width)
  | store (r : Reg) (off : Word) (v : BusValue)
  | command (c : Command) (ch : Chan) (v : CsrValue)
  | commit
  | flush
  | blockRead (ch : Chan)
  | blockWrite (ch : Chan) (bytes : List Byte)
  | reset
deriving DecidableEq, Repr

/-- The kind of every instruction. -/
def kindOf (i : Instr) : Kind :=
  match i with
  | .rdCsrWide off => .read .csr off .word
  | .rdCsrNarrow off => .read .csr off .byte
  | .wrCsr off v => .store .csr off v
  | .rdSavedNext off width => .read .savedNext off width
  | .wrSavedNext off v => .store .savedNext off v
  | .rdSavedLimit off width => .read .savedLimit off width
  | .wrSavedLimit off v => .store .savedLimit off v
  | .rdSavedStart off width => .read .savedStart off width
  | .wrSavedStart off v => .store .savedStart off v
  | .rdSavedStop off width => .read .savedStop off width
  | .wrSavedStop off v => .store .savedStop off v
  | .rdNext off width => .read .next off width
  | .wrNext off v => .store .next off v
  | .rdLimit off width => .read .limit off width
  | .wrLimit off v => .store .limit off v
  | .rdStart off width => .read .start off width
  | .wrStart off v => .store .start off v
  | .rdStop off width => .read .stop off width
  | .wrStop off v => .store .stop off v
  | .rdInit off width => .read .init off width
  | .wrInit off v => .store .init off v
  | .rdSize off width => .read .size off width
  | .wrSize off v => .store .size off v
  | .cmdResetWide ch v => .command .reset ch (.wide v)
  | .cmdResetNarrow ch b => .command .reset ch (.narrow b)
  | .cmdInitbufWide ch v => .command .initbuf ch (.wide v)
  | .cmdInitbufNarrow ch b => .command .initbuf ch (.narrow b)
  | .cmdResetInitbufWide ch v => .command .resetInitbuf ch (.wide v)
  | .cmdResetInitbufNarrow ch b => .command .resetInitbuf ch (.narrow b)
  | .cmdClrcompleteWide ch v => .command .clrcomplete ch (.wide v)
  | .cmdClrcompleteNarrow ch b => .command .clrcomplete ch (.narrow b)
  | .cmdSetsupdateClrcompleteWide ch v => .command .setsupdateClrcomplete ch (.wide v)
  | .cmdSetsupdateClrcompleteNarrow ch b => .command .setsupdateClrcomplete ch (.narrow b)
  | .cmdSetenableWide ch v => .command .setenable ch (.wide v)
  | .cmdSetenableNarrow ch b => .command .setenable ch (.narrow b)
  | .cmdSetenableSetsupdateWide ch v => .command .setenableSetsupdate ch (.wide v)
  | .cmdSetenableSetsupdateNarrow ch b => .command .setenableSetsupdate ch (.narrow b)
  | .cmdNoneWide ch v => .command .noCommand ch (.wide v)
  | .cmdNoneNarrow ch b => .command .noCommand ch (.narrow b)
  | .cmdUnrec02Wide ch v => .command .unrec02 ch (.wide v)
  | .cmdUnrec02Narrow ch b => .command .unrec02 ch (.narrow b)
  | .cmdUnrec09Wide ch v => .command .unrec09 ch (.wide v)
  | .cmdUnrec09Narrow ch b => .command .unrec09 ch (.narrow b)
  | .cmdUnrec0BWide ch v => .command .unrec0B ch (.wide v)
  | .cmdUnrec0BNarrow ch b => .command .unrec0B ch (.narrow b)
  | .cmdUnrec11Wide ch v => .command .unrec11 ch (.wide v)
  | .cmdUnrec11Narrow ch b => .command .unrec11 ch (.narrow b)
  | .cmdUnrec12Wide ch v => .command .unrec12 ch (.wide v)
  | .cmdUnrec12Narrow ch b => .command .unrec12 ch (.narrow b)
  | .cmdUnrec13Wide ch v => .command .unrec13 ch (.wide v)
  | .cmdUnrec13Narrow ch b => .command .unrec13 ch (.narrow b)
  | .cmdUnrec18Wide ch v => .command .unrec18 ch (.wide v)
  | .cmdUnrec18Narrow ch b => .command .unrec18 ch (.narrow b)
  | .cmdUnrec19Wide ch v => .command .unrec19 ch (.wide v)
  | .cmdUnrec19Narrow ch b => .command .unrec19 ch (.narrow b)
  | .cmdUnrec1AWide ch v => .command .unrec1A ch (.wide v)
  | .cmdUnrec1ANarrow ch b => .command .unrec1A ch (.narrow b)
  | .cmdUnrec1BWide ch v => .command .unrec1B ch (.wide v)
  | .cmdUnrec1BNarrow ch b => .command .unrec1B ch (.narrow b)
  | .cmdUnrec21Wide ch v => .command .unrec21 ch (.wide v)
  | .cmdUnrec21Narrow ch b => .command .unrec21 ch (.narrow b)
  | .cmdUnrec22Wide ch v => .command .unrec22 ch (.wide v)
  | .cmdUnrec22Narrow ch b => .command .unrec22 ch (.narrow b)
  | .cmdUnrec23Wide ch v => .command .unrec23 ch (.wide v)
  | .cmdUnrec23Narrow ch b => .command .unrec23 ch (.narrow b)
  | .cmdUnrec28Wide ch v => .command .unrec28 ch (.wide v)
  | .cmdUnrec28Narrow ch b => .command .unrec28 ch (.narrow b)
  | .cmdUnrec29Wide ch v => .command .unrec29 ch (.wide v)
  | .cmdUnrec29Narrow ch b => .command .unrec29 ch (.narrow b)
  | .cmdUnrec2AWide ch v => .command .unrec2A ch (.wide v)
  | .cmdUnrec2ANarrow ch b => .command .unrec2A ch (.narrow b)
  | .cmdUnrec2BWide ch v => .command .unrec2B ch (.wide v)
  | .cmdUnrec2BNarrow ch b => .command .unrec2B ch (.narrow b)
  | .cmdUnrec31Wide ch v => .command .unrec31 ch (.wide v)
  | .cmdUnrec31Narrow ch b => .command .unrec31 ch (.narrow b)
  | .cmdUnrec32Wide ch v => .command .unrec32 ch (.wide v)
  | .cmdUnrec32Narrow ch b => .command .unrec32 ch (.narrow b)
  | .cmdUnrec33Wide ch v => .command .unrec33 ch (.wide v)
  | .cmdUnrec33Narrow ch b => .command .unrec33 ch (.narrow b)
  | .cmdUnrec38Wide ch v => .command .unrec38 ch (.wide v)
  | .cmdUnrec38Narrow ch b => .command .unrec38 ch (.narrow b)
  | .cmdUnrec39Wide ch v => .command .unrec39 ch (.wide v)
  | .cmdUnrec39Narrow ch b => .command .unrec39 ch (.narrow b)
  | .cmdUnrec3AWide ch v => .command .unrec3A ch (.wide v)
  | .cmdUnrec3ANarrow ch b => .command .unrec3A ch (.narrow b)
  | .cmdUnrec3BWide ch v => .command .unrec3B ch (.wide v)
  | .cmdUnrec3BNarrow ch b => .command .unrec3B ch (.narrow b)
  | .devCommit => .commit
  | .devFlush => .flush
  | .devMRead ch => .blockRead ch
  | .devMWrite ch bytes => .blockWrite ch bytes
  | .sysReset => .reset

/-- A register's own width (30_encoding.md R72). -/
def ownWidth (cfg : Config) : Reg → Width
  | .csr => csrWidth cfg.gen
  | .savedNext | .savedLimit | .savedStart | .savedStop
  | .next | .limit | .start | .stop | .init | .size => .word

/-- The value a read of a register returns to the CPU, at the register's own width (40_register_access.md
R104 to R125). -/
def registerReply (cfg : Config) (c : Channel) : Reg → Reply
  | .csr =>
    match cfg.gen with
    | .legacy => .byte (csrNarrow cfg c)
    | .current => .word (csrInt cfg.layout c)
  | .savedNext => .word c.savedNext
  | .savedLimit => .word c.savedLimit
  | .savedStart => .word c.savedStart
  | .savedStop => .word c.savedStop
  | .next => .word c.next
  | .limit => .word c.limit
  | .start => .word c.start
  | .stop => .word c.stop
  | .init => .word c.init
  | .size => .word c.size

/-- The channel with one register stored: a plain store, but for `init`, which seeds `next`
(40_register_access.md R107 to R125). A CSR write is no plain store and has no entry here. -/
def storeRegister (w : Word) (c : Channel) : Reg → Channel
  | .csr => c
  | .savedNext => { c with savedNext := w }
  | .savedLimit => { c with savedLimit := w }
  | .savedStart => { c with savedStart := w }
  | .savedStop => { c with savedStop := w }
  | .next => { c with next := w }
  | .limit => { c with limit := w }
  | .start => { c with start := w }
  | .stop => { c with stop := w }
  | .init => { c with init := w, next := w }
  | .size => { c with size := w }

/-- Bit `p` of `csr_int(ch)`, read off the table of 30_encoding.md R73: the field that stands there, and 0
elsewhere. -/
def csrBit (l : Layout) (c : Channel) (p : Nat) : Bool :=
  (p == l.busexc && c.busexc) || (p == l.complete && c.complete) || (p == l.supdate && c.supdate) ||
    (p == l.enable && c.enable) || (p == l.dir && decide (c.dir = .d2m))

/-- The command field of a narrow CSR byte, as 30_encoding.md R79 and R80 list it; the wide field is the
same number shifted left by 16. -/
def commandByte : Command → Byte
  | .reset => 0x10
  | .initbuf => 0x20
  | .resetInitbuf => 0x30
  | .clrcomplete => 0x08
  | .setsupdateClrcomplete => 0x0A
  | .setenable => 0x01
  | .setenableSetsupdate => 0x03
  | .noCommand => 0x00
  | .unrec02 => 0x02
  | .unrec09 => 0x09
  | .unrec0B => 0x0B
  | .unrec11 => 0x11
  | .unrec12 => 0x12
  | .unrec13 => 0x13
  | .unrec18 => 0x18
  | .unrec19 => 0x19
  | .unrec1A => 0x1A
  | .unrec1B => 0x1B
  | .unrec21 => 0x21
  | .unrec22 => 0x22
  | .unrec23 => 0x23
  | .unrec28 => 0x28
  | .unrec29 => 0x29
  | .unrec2A => 0x2A
  | .unrec2B => 0x2B
  | .unrec31 => 0x31
  | .unrec32 => 0x32
  | .unrec33 => 0x33
  | .unrec38 => 0x38
  | .unrec39 => 0x39
  | .unrec3A => 0x3A
  | .unrec3B => 0x3B

/-- Is a command one of the eight of 30_encoding.md R79? -/
def recognised (c : Command) : Bool :=
  [Command.reset, .initbuf, .resetInitbuf, .clrcomplete, .setsupdateClrcomplete, .setenable,
    .setenableSetsupdate, .noCommand].contains c

/-- The direction of a channel after the direction store of a CSR write (41_csr_commands.md R131). -/
def dirAfter (cfg : Config) (v : CsrValue) (d : Dir) : Dir :=
  if (csrWriteValue cfg v).getLsbD cfg.layout.dir then .d2m else d

/-- The release a CSR write to a channel ends with, as recorded (41_csr_commands.md R142). -/
def releaseCalls (cfg : Config) (ch : Chan) : List Call :=
  match cfg.irq.get ch with
  | none => []
  | some l => [.irqRelease l]

/-- The command, channel and value of a CSR write to a decoded channel, made through `WR.CSR` or standing
as a command row (41_csr_commands.md R130). -/
def csrWriteOf (cfg : Config) (i : Instr) : Option (Command × Chan × CsrValue) :=
  match kindOf i with
  | .command c ch v => some (c, ch, v)
  | .store .csr off v =>
    match csrValueOf v, decodeChan cfg off with
    | some cv, some ch => some (csrCommand cfg cv, ch, cv)
    | _, _ => none
  | _ => none

/-- The channel whose fields an operation may change, under a configuration; `none` for register reads,
for accesses to an unknown offset and for reset, which is no one channel's. -/
def targetOf (cfg : Config) (i : Instr) : Option Chan :=
  match kindOf i with
  | .read _ _ _ => none
  | .store _ off _ => decodeChan cfg off
  | .command _ ch _ => some ch
  | .commit => some .storage
  | .flush => some .storage
  | .blockRead ch => some ch
  | .blockWrite ch _ => some ch
  | .reset => none

/-- Does an operation run the storage engine: the two storage calls, and the two commands that trigger a
commit pass on `storage` (42_burst_engine.md R161, R173)? -/
def runsEngine (cfg : Config) (i : Instr) : Bool :=
  match kindOf i with
  | .commit => true
  | .flush => true
  | .read _ _ _ | .blockRead _ | .blockWrite _ _ | .reset => false
  | .store _ _ _ | .command _ _ _ =>
    match csrWriteOf cfg i with
    | some (.clrcomplete, .storage, _) => true
    | some (.setsupdateClrcomplete, .storage, _) => true
    | _ => false

/-! ### What stays -/

/-- Every byte of memory reads as before. -/
def SameMemory (s t : State) : Prop := ∀ a, readByte t.mem a = readByte s.mem a

/-- Every byte of memory outside `[base, base + n)` (modulo 2^32) reads as before. -/
def SameMemoryOutside (base : Addr) (n : Nat) (s t : State) : Prop :=
  ∀ a : Addr, n ≤ (a - base).toNat → readByte t.mem a = readByte s.mem a

/-- Memory holds these bytes from an address on (20_memory.md R52). -/
def HoldsBytes (t : State) (base : Addr) (bytes : List Byte) : Prop :=
  ∀ i (h : i < bytes.length), readByte t.mem (base + BitVec.ofNat 32 i) = bytes[i]

/-- The fields of every channel but one stay. -/
def SameOtherChannels (ch : Chan) (s t : State) : Prop := ∀ c, c ≠ ch → t.chan c = s.chan c

/-- The level of every line but `IRQ(ch)` stays. -/
def SameOtherLines (ch : Chan) (s t : State) : Prop :=
  ∀ l : IrqLine, s.cfg.irq.get ch ≠ some l → t.level l = s.level l

/-- The line `IRQ(ch)`, where there is one, is at a level. -/
def LineAt (ch : Chan) (level : Bool) (t : State) : Prop :=
  ∀ l, t.cfg.irq.get ch = some l → t.level l = level

/-- The configuration and the operations still pending stay. -/
def SameSetting (s t : State) : Prop := t.cfg = s.cfg ∧ t.pending = s.pending

/-- The free inputs stay unused: the device's ready bytes, the oracle's answers and the draws. -/
def SameInputs (s t : State) : Prop :=
  t.ready = s.ready ∧ t.oracle = s.oracle ∧ t.draws = s.draws

/-- An operation that touches no memory, no staging byte, no device byte and no free input, and no
channel and no line but those of `ch`. -/
def OnlyChannel (ch : Chan) (s t : State) : Prop :=
  SameOtherChannels ch s t ∧ SameOtherLines ch s t ∧ t.staging = s.staging ∧ SameMemory s t ∧
    SameInputs s t ∧ SameSetting s t

/-! ### The staged bytes -/

/-- The staged bytes, oldest first: `S.buf[0 .. S.count-1]` (10_state.md R28). -/
def stagedBytes (st : Staging) : List Byte := st.buf.take st.count

/-- The bytes a commit pass has to commit, oldest first: those staged, then those the device has ready. -/
def available (s : State) : List Byte := stagedBytes s.staging ++ s.ready

/-- The staging buffer holds `BURST` bytes and stages at most that many (10_state.md R28, R36). -/
abbrev StagingOk (s : State) : Prop :=
  s.staging.count ≤ s.cfg.burst ∧ s.staging.buf.length = s.cfg.burst

/-- The device's answers to a pass are all `ok` (20_memory.md R51: "no bus fault" as a premise). -/
abbrev NoFault (s : State) : Prop := ∀ x ∈ s.oracle, x = BusAnswer.ok

/-- A segment that the model gives a burst commit a meaning on, or one with no room, which is never
committed to (42_burst_engine.md R164, R165). -/
abbrev SegmentOk (s : State) : Prop :=
  (s.chan .storage).next.ult (s.chan .storage).limit = true →
    (s.chan .storage).next.toNat % wordBytes = 0 ∧
      ((s.chan .storage).limit - (s.chan .storage).next).toNat % s.cfg.burst = 0

/-! ### The invariant -/

/-- The invariant of the machine: a configuration the spec admits, memory in canonical form, and a staging
buffer of `BURST` bytes with `0 <= S.count <= BURST` (10_state.md R36). -/
abbrev State.Inv (s : State) : Prop := s.cfg.Wf ∧ s.mem.wf = true ∧ StagingOk s

/-! ### Safe runs -/

/-- The operation completes: it answers a next state. -/
def Completes (i : Instr) (s : State) : Prop := ∃ t, exec i s = .next t

/-- A run of `n` steps in which no operation is refused. -/
def SafeRun (n : Nat) (s : State) : Prop := ∃ t, Host.Core.run Sys2Proof.core n s = .next t

end Sys2Proof.Machine
end

