-- ==== Sys2Proof/Certificates/Slice0/Obligations.lean ====
section
/-! DEFINITION. The statements for the provers. Each docstring names the rules of spec/ it formalises; the
kinds of operation and the frame predicates are those of `Safety.lean`. -/

open Sys2Proof Sys2Proof.Machine

/-- Every well-formed operation of every format reads back from its own frame. -/
def Obligations.DecodeEncodeRoundTrip : Prop :=
  ∀ (cfg : Config) (i : Instr), wellFormed cfg i = true → decode cfg (encode i) = .ok i

/-- The other direction: a frame that decodes is the frame of the operation it decodes to, so no bit of a
frame is dropped and no two frames spell the same operation. -/
def Obligations.FrameHasOneMeaning : Prop :=
  ∀ (cfg : Config) (f : Frame) (i : Instr), decode cfg f = .ok i → encode i = f

/-- Six frames. Their access codes and CSR values are written out from the tables of 30_encoding.md R71,
R72, R79, R80; the bytes around them (the width code, the offset and the value low byte first, the channel
index) are the model's own frame layout, a DESIGN CHOICE (log 5). -/
def Obligations.SampleWordsDecode : Prop :=
  decode Config.default ⟨.ra, [0b00100, 0, 0x10, 0, 0, 0]⟩ = .ok (.rdNext 0x010 .word) ∧
  decode Config.default ⟨.ra, [0b01111, 0, 0x50, 1, 0, 0, 0, 2, 0, 0]⟩ =
    .ok (.wrSize 0x150 (.word 0x200)) ∧
  decode Config.default ⟨.ra, [0b11010, 0, 0xD0, 0, 0, 0]⟩ = .ok (.rdSavedStop 0x0D0 .word) ∧
  decode Config.default ⟨.ra, [0b00001, 1, 0x10, 0, 0, 0, 7]⟩ = .ok (.wrCsr 0x010 (.byte 0x07)) ∧
  decode Config.default ⟨.csrwWide, [0, 0, 0x0A, 0, 8]⟩ =
    .ok (.cmdSetsupdateClrcompleteWide .netRx 0x000A0000) ∧
  decode Config.default ⟨.csrwNarrow, [0x09, 0]⟩ = .ok (.cmdUnrec09Narrow .storage 0x09)

/-- 30_encoding.md R78 to R80: the command is the exact value of `w & 0x003B0000` (narrow: of `b & 0x3B`);
the direction bit and the ignored bits of R81 play no part. -/
def Obligations.CommandFieldMatchesExactly : Prop :=
  (∀ (w : Word) (c : Command),
    commandOf Layout.default w = c ↔ w &&& 0x003B0000 = (commandByte c).setWidth 32 <<< 16) ∧
  (∀ (cfg : Config) (b : Byte) (c : Command), cfg.layout = Layout.default → cfg.narrowWriteShift = 16 →
    (csrCommand cfg (.narrow b) = c ↔ b &&& 0x3B = commandByte c))

/-- 30_encoding.md R71, R82; 40_register_access.md R103: the ten 5-bit codes that name no register are
refused, whatever the offset, the width and the value are. `oracle`: the accessor's answers as data (log 8). -/
def Obligations.CodesThatNameNoRegister : Prop :=
  ∀ (s : State) (code wc o0 o1 o2 o3 : Byte) (value feed : List Byte) (oracle : List BusAnswer)
    (rest : List Request),
    code ∈ [0b01000, 0b01001, 0b10000, 0b10001, 0b11000, 0b11001, 0b10110, 0b10111, 0b11110, 0b11111] →
    s.pending = ⟨⟨.ra, code :: wc :: o0 :: o1 :: o2 :: o3 :: value⟩, feed, oracle⟩ :: rest →
    step s = .refused .noSuchRegister

/-- 40_register_access.md R100: the twelve offsets decode to their channels under every configuration the
spec admits, any other offset to `Unknown`, which is logged; with the example table of R100. `calls`: the
model's record of the block's calls (log 12). `reply`: the model's port for what an operation returns (log
11). -/
def Obligations.OffsetsDecodeToChannels : Prop :=
  (∀ cfg : Config, cfg.Wf →
    (∀ ch, decodeChan cfg (cfg.chanOff.get ch) = some ch) ∧
    (∀ off, (∀ ch, cfg.chanOff.get ch ≠ off) → decodeChan cfg off = none)) ∧
  ([0x010, 0x040, 0x050, 0x080, 0x090, 0x0C0, 0x0D0, 0x110, 0x150, 0x180, 0x1D0, 0x1C0].map
    (decodeChan Config.default) =
    [some .storage, some .soundOut, some .opticalDisk, some .soundIn, some .printer, some .serial,
      some .dsp, some .netTx, some .netRx, some .video, some .m2r, some .r2m] ∧
    decodeChan Config.default 0x020 = none) ∧
  (∀ (s : State) (off : Word), decodeChan s.cfg off = none →
    exec (.rdNext off .word) s =
      .next { s with reply := .word 0, calls := .log (.unknownChannel off) :: s.calls })

/-- 40_register_access.md R106, R108, R110, R112, R114, R116, R118, R120, R122, R124: the register,
verbatim, and no other change; 0 for an unknown offset (R102). `calls`: the model's record of the block's
calls (log 12). `reply`: the model's port for what an operation returns (log 11). -/
def Obligations.RegisterReadsReturnTheRegister : Prop :=
  (∀ (s : State) (off : Word) (ch : Chan), decodeChan s.cfg off = some ch →
    (accessCode .savedNext false = 0b00010 ∧
      exec (.rdSavedNext off .word) s =
        .next { s with reply := .word (s.chan ch).savedNext }) ∧
    (accessCode .savedLimit false = 0b01010 ∧
      exec (.rdSavedLimit off .word) s =
        .next { s with reply := .word (s.chan ch).savedLimit }) ∧
    (accessCode .savedStart false = 0b10010 ∧
      exec (.rdSavedStart off .word) s =
        .next { s with reply := .word (s.chan ch).savedStart }) ∧
    (accessCode .savedStop false = 0b11010 ∧
      exec (.rdSavedStop off .word) s =
        .next { s with reply := .word (s.chan ch).savedStop }) ∧
    (accessCode .next false = 0b00100 ∧
      exec (.rdNext off .word) s =
        .next { s with reply := .word (s.chan ch).next }) ∧
    (accessCode .limit false = 0b01100 ∧
      exec (.rdLimit off .word) s =
        .next { s with reply := .word (s.chan ch).limit }) ∧
    (accessCode .start false = 0b10100 ∧
      exec (.rdStart off .word) s =
        .next { s with reply := .word (s.chan ch).start }) ∧
    (accessCode .stop false = 0b11100 ∧
      exec (.rdStop off .word) s =
        .next { s with reply := .word (s.chan ch).stop }) ∧
    (accessCode .init false = 0b00110 ∧
      exec (.rdInit off .word) s =
        .next { s with reply := .word (s.chan ch).init }) ∧
    (accessCode .size false = 0b01110 ∧
      exec (.rdSize off .word) s =
        .next { s with reply := .word (s.chan ch).size })) ∧
  (∀ (s : State) (off : Word), decodeChan s.cfg off = none →
    exec (.rdSavedNext off .word) s =
      .next { s with reply := .word 0, calls := .log (.unknownChannel off) :: s.calls } ∧
    exec (.rdSavedLimit off .word) s =
      .next { s with reply := .word 0, calls := .log (.unknownChannel off) :: s.calls } ∧
    exec (.rdSavedStart off .word) s =
      .next { s with reply := .word 0, calls := .log (.unknownChannel off) :: s.calls } ∧
    exec (.rdSavedStop off .word) s =
      .next { s with reply := .word 0, calls := .log (.unknownChannel off) :: s.calls } ∧
    exec (.rdNext off .word) s =
      .next { s with reply := .word 0, calls := .log (.unknownChannel off) :: s.calls } ∧
    exec (.rdLimit off .word) s =
      .next { s with reply := .word 0, calls := .log (.unknownChannel off) :: s.calls } ∧
    exec (.rdStart off .word) s =
      .next { s with reply := .word 0, calls := .log (.unknownChannel off) :: s.calls } ∧
    exec (.rdStop off .word) s =
      .next { s with reply := .word 0, calls := .log (.unknownChannel off) :: s.calls } ∧
    exec (.rdInit off .word) s =
      .next { s with reply := .word 0, calls := .log (.unknownChannel off) :: s.calls } ∧
    exec (.rdSize off .word) s =
      .next { s with reply := .word 0, calls := .log (.unknownChannel off) :: s.calls })

/-- 40_register_access.md R107, R109, R111, R113, R115, R117, R119, R121, R123, R125: the value is stored in
the named register of the decoded channel, and a write of `init` seeds `next`; nothing else changes. A write
at an unknown offset is discarded (R102). `calls`: the model's record of the block's calls (log 12).
`reply`: the model's port for what an operation returns (log 11). -/
def Obligations.RegisterWritesStoreTheValue : Prop :=
  (∀ (s : State) (off v : Word) (ch : Chan), decodeChan s.cfg off = some ch →
    (accessCode .savedNext true = 0b00011 ∧
      exec (.wrSavedNext off (.word v)) s =
        .next { s with chans := s.chans.set ch { s.chan ch with savedNext := v }, reply := .none }) ∧
    (accessCode .savedLimit true = 0b01011 ∧
      exec (.wrSavedLimit off (.word v)) s =
        .next { s with chans := s.chans.set ch { s.chan ch with savedLimit := v }, reply := .none }) ∧
    (accessCode .savedStart true = 0b10011 ∧
      exec (.wrSavedStart off (.word v)) s =
        .next { s with chans := s.chans.set ch { s.chan ch with savedStart := v }, reply := .none }) ∧
    (accessCode .savedStop true = 0b11011 ∧
      exec (.wrSavedStop off (.word v)) s =
        .next { s with chans := s.chans.set ch { s.chan ch with savedStop := v }, reply := .none }) ∧
    (accessCode .next true = 0b00101 ∧
      exec (.wrNext off (.word v)) s =
        .next { s with chans := s.chans.set ch { s.chan ch with next := v }, reply := .none }) ∧
    (accessCode .limit true = 0b01101 ∧
      exec (.wrLimit off (.word v)) s =
        .next { s with chans := s.chans.set ch { s.chan ch with limit := v }, reply := .none }) ∧
    (accessCode .start true = 0b10101 ∧
      exec (.wrStart off (.word v)) s =
        .next { s with chans := s.chans.set ch { s.chan ch with start := v }, reply := .none }) ∧
    (accessCode .stop true = 0b11101 ∧
      exec (.wrStop off (.word v)) s =
        .next { s with chans := s.chans.set ch { s.chan ch with stop := v }, reply := .none }) ∧
    (accessCode .init true = 0b00111 ∧
      exec (.wrInit off (.word v)) s =
        .next { s with chans := s.chans.set ch { s.chan ch with init := v, next := v }, reply := .none }) ∧
    (accessCode .size true = 0b01111 ∧
      exec (.wrSize off (.word v)) s =
        .next { s with chans := s.chans.set ch { s.chan ch with size := v }, reply := .none })) ∧
  (∀ (s : State) (off v : Word), decodeChan s.cfg off = none →
    exec (.wrSavedNext off (.word v)) s =
      .next { s with reply := .none, calls := .log (.unknownChannel off) :: s.calls } ∧
    exec (.wrSavedLimit off (.word v)) s =
      .next { s with reply := .none, calls := .log (.unknownChannel off) :: s.calls } ∧
    exec (.wrSavedStart off (.word v)) s =
      .next { s with reply := .none, calls := .log (.unknownChannel off) :: s.calls } ∧
    exec (.wrSavedStop off (.word v)) s =
      .next { s with reply := .none, calls := .log (.unknownChannel off) :: s.calls } ∧
    exec (.wrNext off (.word v)) s =
      .next { s with reply := .none, calls := .log (.unknownChannel off) :: s.calls } ∧
    exec (.wrLimit off (.word v)) s =
      .next { s with reply := .none, calls := .log (.unknownChannel off) :: s.calls } ∧
    exec (.wrStart off (.word v)) s =
      .next { s with reply := .none, calls := .log (.unknownChannel off) :: s.calls } ∧
    exec (.wrStop off (.word v)) s =
      .next { s with reply := .none, calls := .log (.unknownChannel off) :: s.calls } ∧
    exec (.wrInit off (.word v)) s =
      .next { s with reply := .none, calls := .log (.unknownChannel off) :: s.calls } ∧
    exec (.wrSize off (.word v)) s =
      .next { s with reply := .none, calls := .log (.unknownChannel off) :: s.calls })

/-- 40_register_access.md R126: whatever register it reads, a read changes no channel field, no staging
byte, no line and no memory; and what a snapshot write stored, a read returns. `calls`: the model's record
of the block's calls (log 12). `reply`: the model's port for what an operation returns (log 11). -/
def Obligations.ReadsChangeNothing : Prop :=
  (∀ (i : Instr) (r : Reg) (off : Word) (width : Width) (s t : State),
    kindOf i = .read r off width → exec i s = .next t →
    { t with reply := s.reply, calls := s.calls } = s ∧ (∀ l, t.level l = s.level l)) ∧
  (∀ (i j : Instr) (r : Reg) (off v : Word) (ch : Chan) (s : State),
    kindOf i = .store r off (.word v) → kindOf j = .read r off .word → r ≠ .csr →
    decodeChan s.cfg off = some ch →
    ∃ t u, exec i s = .next t ∧ exec j t = .next u ∧ u.reply = .word v)

/-- 40_register_access.md R102, 41_csr_commands.md R144, 60_exceptions.md R211: at an offset that matches no
channel, a read returns 0 at the access's width and a write is discarded whole; only the log changes.
`calls`: the model's record of the block's calls (log 12). `reply`: the model's port for what an operation
returns (log 11). -/
def Obligations.UnknownOffsetIsNoOp : Prop :=
  (∀ (i : Instr) (r : Reg) (off : Word) (s : State), kindOf i = .read r off (ownWidth s.cfg r) →
    decodeChan s.cfg off = none →
    ∃ t, exec i s = .next t ∧ { t with reply := s.reply, calls := s.calls } = s ∧
      t.calls = .log (.unknownChannel off) :: s.calls ∧
      (ownWidth s.cfg r = .word → t.reply = .word 0) ∧
      (ownWidth s.cfg r = .byte → t.reply = .byte 0)) ∧
  (∀ (i : Instr) (r : Reg) (off : Word) (v : BusValue) (s : State), kindOf i = .store r off v →
    v.width = ownWidth s.cfg r → decodeChan s.cfg off = none →
    ∃ t, exec i s = .next t ∧ { t with reply := s.reply, calls := s.calls } = s ∧
      t.calls = .log (.unknownChannel off) :: s.calls)

/-- 40_register_access.md R103, 30_encoding.md R82: an access at a width other than its register's own is
refused, before the offset is looked at. -/
def Obligations.WrongWidthIsRefused : Prop :=
  (∀ (i : Instr) (r : Reg) (off : Word) (width : Width) (s : State), kindOf i = .read r off width →
    width ≠ ownWidth s.cfg r → exec i s = .refused .width) ∧
  (∀ (i : Instr) (r : Reg) (off : Word) (v : BusValue) (s : State), kindOf i = .store r off v →
    v.width ≠ ownWidth s.cfg r → exec i s = .refused .width) ∧
  (∀ (i : Instr) (c : Command) (ch : Chan) (v : CsrValue) (s : State), kindOf i = .command c ch v →
    csrValueWidth v ≠ csrWidth s.cfg.gen → exec i s = .refused .width)

/-- 30_encoding.md R74 and 40_register_access.md R104, bit by bit, for every layout; with the table and the
packing formula of the default layout. `reply`: the model's port for what an operation returns (log 11). -/
def Obligations.WideCsrReadBits : Prop :=
  (∀ (s : State) (off : Word) (ch : Chan), s.cfg.gen = .current → decodeChan s.cfg off = some ch →
    ∃ w : Word, exec (.rdCsrWide off) s = .next { s with reply := .word w } ∧
      (∀ p, p < 32 → w.getLsbD p = csrBit s.cfg.layout (s.chan ch) p) ∧
      (s.cfg.layout = Layout.default →
        w = ((BitVec.ofBool (s.chan ch).busexc).setWidth 32 <<< 28 |||
          (BitVec.ofBool (s.chan ch).complete).setWidth 32 <<< 27 |||
          (BitVec.ofBool (s.chan ch).supdate).setWidth 32 <<< 25 |||
          (BitVec.ofBool (s.chan ch).enable).setWidth 32 <<< 24 |||
          (if (s.chan ch).dir = .d2m then 1 else 0) <<< 18))) ∧
  (∀ (s : State) (off : Word), s.cfg.gen = .current → decodeChan s.cfg off = none →
    ∃ t, exec (.rdCsrWide off) s = .next t ∧ t.reply = .word 0) ∧
  accessCode .csr false = 0b00000

/-- 30_encoding.md R75 and 40_register_access.md R105: the status bits shifted down, with direction placed
into its bit by OR (90_conflicts.md C3), for every layout; with the table of the default layout. `reply`:
the model's port for what an operation returns (log 11). -/
def Obligations.NarrowCsrReadBits : Prop :=
  (∀ (s : State) (off : Word) (ch : Chan), s.cfg.gen = .legacy → decodeChan s.cfg off = some ch →
    ∃ b : Byte, exec (.rdCsrNarrow off) s = .next { s with reply := .byte b } ∧
      (∀ p, p < 8 → b.getLsbD p =
        ((decide (p + s.cfg.narrowStatusShift < 32) &&
            csrBit s.cfg.layout (s.chan ch) (p + s.cfg.narrowStatusShift)) ||
          (p == s.cfg.narrowDirBit && decide ((s.chan ch).dir = .d2m)))) ∧
      (s.cfg.layout = Layout.default → s.cfg.narrowStatusShift = 24 → s.cfg.narrowDirBit = 3 →
        b.getLsbD 0 = (s.chan ch).enable ∧ b.getLsbD 1 = (s.chan ch).supdate ∧ b.getLsbD 2 = false ∧
        b.getLsbD 3 = ((s.chan ch).complete || decide ((s.chan ch).dir = .d2m)) ∧
        b.getLsbD 4 = (s.chan ch).busexc ∧ b.getLsbD 5 = false ∧ b.getLsbD 6 = false ∧
        b.getLsbD 7 = false)) ∧
  (∀ (s : State) (off : Word), s.cfg.gen = .legacy → decodeChan s.cfg off = none →
    ∃ t, exec (.rdCsrNarrow off) s = .next t ∧ t.reply = .byte 0) ∧
  accessCode .csr false = 0b00000

/-- 41_csr_commands.md R142: after its command and any commit pass, every CSR write to a decoded channel
releases the line of that channel, and lowers no other. `calls`: the model's record of the block's calls
(log 12). -/
def Obligations.CsrWriteEndsWithRelease : Prop :=
  (∀ (i : Instr) (c : Command) (ch : Chan) (v : CsrValue) (s t : State),
    csrWriteOf s.cfg i = some (c, ch, v) → exec i s = .next t →
    LineAt ch false t ∧
    (∀ l, s.cfg.irq.get ch = some l → t.calls.head? = some (.irqRelease l)) ∧
    (∀ l, s.cfg.irq.get ch ≠ some l → s.level l = true → t.level l = true)) ∧
  (∀ (off : Word) (v : BusValue) (s t : State),
    decodeChan s.cfg off = none → exec (.wrCsr off v) s = .next t → ∀ l, t.level l = s.level l)

/-- 41_csr_commands.md R131: a set `DIR` bit stores `D2M` whatever the command is, a clear one changes
nothing, and only a reset command returns direction to `M2D`, a set bit in the same write included. -/
def Obligations.DirectionIsStoredUngated : Prop :=
  ∀ (i : Instr) (c : Command) (ch : Chan) (v : CsrValue) (s t : State),
    csrWriteOf s.cfg i = some (c, ch, v) → exec i s = .next t →
    (t.chan ch).dir =
      if c = .reset ∨ c = .resetInitbuf then .m2d else dirAfter s.cfg v (s.chan ch).dir

/-- 41_csr_commands.md R130, R132: a CSR write at a decoded offset is the row of the command its value
carries. -/
def Obligations.WrCsrRunsTheCommandItCarries : Prop :=
  ∀ (s : State) (off : Word) (ch : Chan), decodeChan s.cfg off = some ch →
    (∀ v : Word, s.cfg.gen = .current →
      exec (.wrCsr off (.word v)) s = exec (wideInstr (csrCommand s.cfg (.wide v)) ch v) s) ∧
    (∀ b : Byte, s.cfg.gen = .legacy →
      exec (.wrCsr off (.byte b)) s = exec (narrowInstr (csrCommand s.cfg (.narrow b)) ch b) s)

/-- 41_csr_commands.md R133: `complete`, `supdate` and `enable` 0, direction `M2D`; `busexc`, the pointers
and the staging buffer stay. `calls`: the model's record of the block's calls (log 12). -/
def Obligations.ResetCommandClearsFourFields : Prop :=
  commandOf Layout.default 0x00100000 = .reset ∧ commandByte .reset = 0x10 ∧
  ∀ (i : Instr) (ch : Chan) (v : CsrValue) (s : State), csrWriteOf s.cfg i = some (.reset, ch, v) →
    csrValueWidth v = csrWidth s.cfg.gen →
    ∃ t, exec i s = .next t ∧
      t.chan ch =
        { s.chan ch with complete := false, supdate := false, enable := false, dir := .m2d } ∧
      OnlyChannel ch s t ∧ LineAt ch false t ∧ t.calls = releaseCalls s.cfg ch ++ s.calls

/-- 41_csr_commands.md R134: only a write to `storage` empties the staging buffer, whose bytes stay; every
channel's device is asked to reset its counters. `calls`: the model's record of the block's calls (log 12). -/
def Obligations.InitbufCommandEmptiesStorageStaging : Prop :=
  commandOf Layout.default 0x00200000 = .initbuf ∧ commandByte .initbuf = 0x20 ∧
  ∀ (i : Instr) (ch : Chan) (v : CsrValue) (s : State), csrWriteOf s.cfg i = some (.initbuf, ch, v) →
    csrValueWidth v = csrWidth s.cfg.gen →
    ∃ t, exec i s = .next t ∧
      t.chan ch = { s.chan ch with dir := dirAfter s.cfg v (s.chan ch).dir } ∧
      t.staging = (if ch = .storage then { s.staging with count := 0 } else s.staging) ∧
      t.calls = releaseCalls s.cfg ch ++ .devInitBuffers ch :: s.calls ∧ LineAt ch false t ∧
      SameOtherChannels ch s t ∧ SameOtherLines ch s t ∧ SameMemory s t ∧ SameInputs s t ∧ SameSetting s t

/-- 41_csr_commands.md R135: both effects; the recovery command. `calls`: the model's record of the block's
calls (log 12). -/
def Obligations.ResetInitbufCommandDoesBoth : Prop :=
  commandOf Layout.default 0x00300000 = .resetInitbuf ∧ commandByte .resetInitbuf = 0x30 ∧
  (∀ (ch : Chan) (s : State), doInitBuf ch (doReset ch s) = doReset ch (doInitBuf ch s)) ∧
  ∀ (i : Instr) (ch : Chan) (v : CsrValue) (s : State),
    csrWriteOf s.cfg i = some (.resetInitbuf, ch, v) → csrValueWidth v = csrWidth s.cfg.gen →
    ∃ t, exec i s = .next t ∧
      t.chan ch =
        { s.chan ch with complete := false, supdate := false, enable := false, dir := .m2d } ∧
      t.staging = (if ch = .storage then { s.staging with count := 0 } else s.staging) ∧
      t.calls = releaseCalls s.cfg ch ++ .devInitBuffers ch :: s.calls ∧ LineAt ch false t ∧
      SameOtherChannels ch s t ∧ SameOtherLines ch s t ∧ SameMemory s t ∧ SameInputs s t ∧ SameSetting s t

/-- 41_csr_commands.md R138, R139: `enable`, and with the second command `supdate`, are set; nothing starts.
`calls`: the model's record of the block's calls (log 12). -/
def Obligations.EnableCommandsSetTheirFlags : Prop :=
  commandOf Layout.default 0x00010000 = .setenable ∧ commandByte .setenable = 0x01 ∧
  commandOf Layout.default 0x00030000 = .setenableSetsupdate ∧
  commandByte .setenableSetsupdate = 0x03 ∧
  (∀ (i : Instr) (ch : Chan) (v : CsrValue) (s : State), csrWriteOf s.cfg i = some (.setenable, ch, v) →
    csrValueWidth v = csrWidth s.cfg.gen →
    ∃ t, exec i s = .next t ∧
      t.chan ch = { s.chan ch with enable := true, dir := dirAfter s.cfg v (s.chan ch).dir } ∧
      OnlyChannel ch s t ∧ LineAt ch false t ∧ t.calls = releaseCalls s.cfg ch ++ s.calls) ∧
  (∀ (i : Instr) (ch : Chan) (v : CsrValue) (s : State),
    csrWriteOf s.cfg i = some (.setenableSetsupdate, ch, v) → csrValueWidth v = csrWidth s.cfg.gen →
    ∃ t, exec i s = .next t ∧
      t.chan ch =
        { s.chan ch with enable := true, supdate := true, dir := dirAfter s.cfg v (s.chan ch).dir } ∧
      OnlyChannel ch s t ∧ LineAt ch false t ∧ t.calls = releaseCalls s.cfg ch ++ s.calls)

/-- 41_csr_commands.md R140, R141, 60_exceptions.md R212: no command effect; the direction store and the
release still happen, and the diagnostic is logged. `calls`: the model's record of the block's calls (log
12). -/
def Obligations.NoneAndUnrecognisedOnlyLog : Prop :=
  commandOf Layout.default 0 = .noCommand ∧
  ∀ (i : Instr) (c : Command) (ch : Chan) (v : CsrValue) (s : State),
    csrWriteOf s.cfg i = some (c, ch, v) → csrValueWidth v = csrWidth s.cfg.gen →
    (c = .noCommand ∨ recognised c = false) →
    ∃ t, exec i s = .next t ∧
      t.chan ch = { s.chan ch with dir := dirAfter s.cfg v (s.chan ch).dir } ∧
      OnlyChannel ch s t ∧ LineAt ch false t ∧
      t.calls = releaseCalls s.cfg ch ++
        .log (if c = .noCommand then .noCommand else .badCommand c) :: s.calls

/-- 41_csr_commands.md R136: `complete` is cleared; on `storage` a commit pass follows, on the state with
`complete` already cleared, and the release comes after it; a refused pass refuses the write (R130).
`calls`: the model's record of the block's calls (log 12). -/
def Obligations.ClearCompleteRunsAPassOnStorage : Prop :=
  commandOf Layout.default 0x00080000 = .clrcomplete ∧ commandByte .clrcomplete = 0x08 ∧
  (∀ (i : Instr) (ch : Chan) (v : CsrValue) (s : State), csrWriteOf s.cfg i = some (.clrcomplete, ch, v) →
    csrValueWidth v = csrWidth s.cfg.gen → ch ≠ .storage →
    ∃ t, exec i s = .next t ∧
      t.chan ch = { s.chan ch with complete := false, dir := dirAfter s.cfg v (s.chan ch).dir } ∧
      OnlyChannel ch s t ∧ LineAt ch false t ∧ t.calls = releaseCalls s.cfg ch ++ s.calls) ∧
  (∀ (i : Instr) (v : CsrValue) (s p : State), csrWriteOf s.cfg i = some (.clrcomplete, .storage, v) →
    csrValueWidth v = csrWidth s.cfg.gen →
    p = { s with
      chans := s.chans.set .storage
        ({ s.chan .storage with
            complete := false, dir := dirAfter s.cfg v (s.chan .storage).dir } : Channel) } →
    (∀ u, exec .devCommit p = .next u →
      ∃ t, exec i s = .next t ∧ { t with lines := u.lines, calls := u.calls } = u ∧
        LineAt .storage false t ∧ SameOtherLines .storage u t ∧
        t.calls = releaseCalls s.cfg .storage ++ u.calls) ∧
    (∀ r, exec .devCommit p = .refused r → exec i s = .refused r))

/-- 41_csr_commands.md R137: chaining is armed and `complete` cleared before the pass. `calls`: the model's
record of the block's calls (log 12). -/
def Obligations.RearmRunsAPassOnStorage : Prop :=
  commandOf Layout.default 0x000A0000 = .setsupdateClrcomplete ∧
  commandByte .setsupdateClrcomplete = 0x0A ∧
  (∀ (i : Instr) (ch : Chan) (v : CsrValue) (s : State), csrWriteOf s.cfg i = some (.setsupdateClrcomplete, ch, v) →
    csrValueWidth v = csrWidth s.cfg.gen → ch ≠ .storage →
    ∃ t, exec i s = .next t ∧
      t.chan ch = { s.chan ch with supdate := true, complete := false, dir := dirAfter s.cfg v (s.chan ch).dir } ∧
      OnlyChannel ch s t ∧ LineAt ch false t ∧ t.calls = releaseCalls s.cfg ch ++ s.calls) ∧
  (∀ (i : Instr) (v : CsrValue) (s p : State), csrWriteOf s.cfg i = some (.setsupdateClrcomplete, .storage, v) →
    csrValueWidth v = csrWidth s.cfg.gen →
    p = { s with
      chans := s.chans.set .storage
        ({ s.chan .storage with
            supdate := true, complete := false, dir := dirAfter s.cfg v (s.chan .storage).dir } : Channel) } →
    (∀ u, exec .devCommit p = .next u →
      ∃ t, exec i s = .next t ∧ { t with lines := u.lines, calls := u.calls } = u ∧
        LineAt .storage false t ∧ SameOtherLines .storage u t ∧
        t.calls = releaseCalls s.cfg .storage ++ u.calls) ∧
    (∀ r, exec .devCommit p = .refused r → exec i s = .refused r))

/-- Every CSR write at the CSR's width completes, but for one that runs a commit pass on a segment the pass
is refused on (41_csr_commands.md R130, R136, R137, 42_burst_engine.md R165). -/
def Obligations.CsrWritesComplete : Prop :=
  ∀ (i : Instr) (c : Command) (ch : Chan) (v : CsrValue) (s : State),
    csrWriteOf s.cfg i = some (c, ch, v) → csrValueWidth v = csrWidth s.cfg.gen →
    (runsEngine s.cfg i = true → s.cfg.Wf ∧ StagingOk s ∧ SegmentOk s) →
    ∃ t, exec i s = .next t ∧ SameOtherChannels ch s t ∧ LineAt ch false t

/-- 42_burst_engine.md R162: with the enable guard and `enable = 0`, a device operation changes nothing and
makes no memory access; a commit pass still hands back. `calls`: the model's record of the block's calls
(log 12). `reply`: the model's port for what an operation returns (log 11). -/
def Obligations.DisabledChannelsDoNothing : Prop :=
  (∀ s : State, s.cfg.enableGuard = true → (s.chan .storage).enable = false →
    exec .devCommit s = .next
      { s with reply := .none, calls := .devHandBack :: .log .commitWhileDisabled :: s.calls } ∧
    exec .devFlush s = .next { s with reply := .none, calls := .log .flushWhileDisabled :: s.calls }) ∧
  (∀ (s : State) (ch : Chan) (bytes : List Byte), ch ≠ .storage → s.cfg.enableGuard = true →
    (s.chan ch).enable = false →
    exec (.devMRead ch) s = .next
      { s with reply := .block 0 [], calls := .log (.transferWhileDisabled ch) :: s.calls } ∧
    exec (.devMWrite ch bytes) s = .next
      { s with reply := .none, calls := .log (.transferWhileDisabled ch) :: s.calls }) ∧
  (∀ (s : State) (bytes : List Byte), exec (.devMRead .storage) s = .refused .notGeneric ∧
    exec (.devMWrite .storage bytes) s = .refused .notGeneric)

/-- The whole commit pass without faults, in closed form (42_burst_engine.md R161 to R172, R175): with `k`
the number of whole bursts that both the available bytes and the segment hold, exactly the first `k * BURST`
bytes land at `next`, in order; the rest stays staged, up to a burst, and with the device; the pass ends at
the first completion. `calls`: the model's record of the block's calls (log 12). `oracle`: the accessor's
answers as data (log 8). `ready`: the device's bytes as data (log 14). -/
def Obligations.CommitPassMovesWholeBursts : Prop :=
  ∀ (s : State) (avail : List Byte) (room k : Nat), s.Inv → NoFault s → SegmentOk s →
    (s.cfg.enableGuard = true → (s.chan .storage).enable = true) → avail = available s →
    room = (if (s.chan .storage).next.ult (s.chan .storage).limit then
      ((s.chan .storage).limit - (s.chan .storage).next).toNat else 0) →
    k = min (avail.length / s.cfg.burst) (room / s.cfg.burst) →
    ∃ t, exec .devCommit s = .next t ∧
      HoldsBytes t (s.chan .storage).next (avail.take (k * s.cfg.burst)) ∧
      SameMemoryOutside (s.chan .storage).next (k * s.cfg.burst) s t ∧
      SameOtherChannels .storage s t ∧ SameOtherLines .storage s t ∧ SameSetting s t ∧
      t.draws = s.draws ∧ t.calls.head? = some .devHandBack ∧
      (if 0 < k ∧ k * s.cfg.burst = room then
        t.chan .storage =
          (if (s.chan .storage).supdate then
            { s.chan .storage with
              complete := true, supdate := false, next := (s.chan .storage).start,
              limit := (s.chan .storage).stop }
          else
            { s.chan .storage with
              complete := true, enable := false, next := (s.chan .storage).limit }) ∧
        stagedBytes t.staging = [] ∧ t.ready = avail.drop (k * s.cfg.burst) ∧ LineAt .storage true t
      else
        t.chan .storage =
          { s.chan .storage with
            next := (s.chan .storage).next + BitVec.ofNat 32 (k * s.cfg.burst) } ∧
        stagedBytes t.staging = (avail.drop (k * s.cfg.burst)).take s.cfg.burst ∧
        t.ready = (avail.drop (k * s.cfg.burst)).drop s.cfg.burst ∧
        ∀ l, t.level l = s.level l)

/-- 42_burst_engine.md R171, 60_exceptions.md R213: a fault on any word write of a pass. The bursts before
it are committed, the words before it in its burst stay in memory, `next` is the start of the faulted burst,
whose bytes stay staged; the channel records the fault and no completion runs. `calls`: the model's record
of the block's calls (log 12). `oracle`: the accessor's answers as data (log 8). `ready`: the device's bytes
as data (log 14). -/
def Obligations.CommitFaultKeepsWordsAlreadyWritten : Prop :=
  ∀ (s : State) (avail : List Byte) (q j : Nat) (later : List BusAnswer), s.Inv → SegmentOk s →
    (s.cfg.enableGuard = true → (s.chan .storage).enable = true) → avail = available s →
    j < s.cfg.burst / wordBytes →
    s.oracle = List.replicate (q * (s.cfg.burst / wordBytes) + j) .ok ++ .fault :: later →
    (q + 1) * s.cfg.burst ≤ avail.length →
    (s.chan .storage).next.toNat + (q + 1) * s.cfg.burst ≤ (s.chan .storage).limit.toNat →
    ∃ t, exec .devCommit s = .next t ∧
      t.chan .storage =
        { s.chan .storage with
          enable := false, complete := true, busexc := true
          next := (s.chan .storage).next + BitVec.ofNat 32 (q * s.cfg.burst) } ∧
      HoldsBytes t (s.chan .storage).next (avail.take (q * s.cfg.burst + wordBytes * j)) ∧
      SameMemoryOutside (s.chan .storage).next (q * s.cfg.burst + wordBytes * j) s t ∧
      stagedBytes t.staging = (avail.drop (q * s.cfg.burst)).take s.cfg.burst ∧
      t.ready = (avail.drop (q * s.cfg.burst)).drop s.cfg.burst ∧ t.oracle = later ∧
      SameOtherChannels .storage s t ∧ SameOtherLines .storage s t ∧ SameSetting s t ∧
      t.draws = s.draws ∧ t.calls.head? = some .devHandBack ∧
      (s.cfg.faultIrq = true → LineAt .storage true t) ∧
      (s.cfg.faultIrq = false → ∀ l, t.level l = s.level l)

/-- 42_burst_engine.md R168, R169: at a completion, chaining armed reloads `next`/`limit` from
`start`/`stop` and is used up; without it `enable` is cleared and `next` stays at `limit`. `oracle`: the
accessor's answers as data (log 8). `ready`: the device's bytes as data (log 14). -/
def Obligations.CompletionReloadsOnceOrDisables : Prop :=
  ∀ (s : State), s.Inv → NoFault s → SegmentOk s →
    (s.cfg.enableGuard = true → (s.chan .storage).enable = true) →
    (s.chan .storage).next.ult (s.chan .storage).limit = true →
    ((s.chan .storage).limit - (s.chan .storage).next).toNat ≤ (available s).length →
    ∃ t, exec .devCommit s = .next t ∧ (t.chan .storage).complete = true ∧
      ((s.chan .storage).supdate = true →
        (t.chan .storage).next = (s.chan .storage).start ∧
        (t.chan .storage).limit = (s.chan .storage).stop ∧ (t.chan .storage).supdate = false ∧
        (t.chan .storage).enable = (s.chan .storage).enable) ∧
      ((s.chan .storage).supdate = false →
        (t.chan .storage).enable = false ∧ (t.chan .storage).next = (s.chan .storage).limit ∧
        (t.chan .storage).limit = (s.chan .storage).limit ∧ (t.chan .storage).supdate = false) ∧
      (t.chan .storage).start = (s.chan .storage).start ∧
      (t.chan .storage).stop = (s.chan .storage).stop ∧
      (t.chan .storage).savedNext = (s.chan .storage).savedNext ∧
      (t.chan .storage).savedLimit = (s.chan .storage).savedLimit ∧
      (t.chan .storage).savedStart = (s.chan .storage).savedStart ∧
      (t.chan .storage).savedStop = (s.chan .storage).savedStop

/-- 42_burst_engine.md R165: a burst commit on a segment that is not word-aligned or not a whole number of
bursts long is refused, before its first word write. `ready`: the device's bytes as data (log 14). -/
def Obligations.MisalignedCommitIsRefused : Prop :=
  ∀ s : State, s.cfg.Wf → StagingOk s →
    (s.cfg.enableGuard = true → (s.chan .storage).enable = true) →
    s.cfg.burst ≤ (available s).length →
    (s.chan .storage).next.ult (s.chan .storage).limit = true →
    ((s.chan .storage).next.toNat % wordBytes ≠ 0 ∨
      ((s.chan .storage).limit - (s.chan .storage).next).toNat % s.cfg.burst ≠ 0) →
    exec .devCommit s = .refused .misaligned

/-- The bound on the loop of a pass (log 16) is no limit of the machine: more turns change nothing, whatever
the oracle answers. `ready`: the device's bytes as data (log 14). -/
def Obligations.TurnBoundNeverCutsAPass : Prop :=
  ∀ (s : State) (n : Nat), StagingOk s → s.ready.length + 2 ≤ n →
    commitLoop n s = commitLoop (s.ready.length + 2) s

/-- 10_state.md R33: the engine's own advances, in a commit pass however it is run (by the device or by a
CSR write) and in a flush, stop at `limit`, but for the wrap to `start`/`stop`, which comes with a
completion and uses up an arming. `armed`: the arming the pass starts from, which the re-arm command itself
sets (41_csr_commands.md R137). -/
def Obligations.EngineNeverPassesLimit : Prop :=
  ∀ (i : Instr) (s t : State) (armed : Bool), runsEngine s.cfg i = true →
    armed = (match csrWriteOf s.cfg i with
      | some (.setsupdateClrcomplete, _, _) => true
      | _ => (s.chan .storage).supdate) →
    (s.chan .storage).next.toNat ≤ (s.chan .storage).limit.toNat → exec i s = .next t →
    ((t.chan .storage).limit = (s.chan .storage).limit ∧
      (s.chan .storage).next.toNat ≤ (t.chan .storage).next.toNat ∧
      (t.chan .storage).next.toNat ≤ (t.chan .storage).limit.toNat ∧
      (t.chan .storage).supdate = armed) ∨
    (armed = true ∧ (t.chan .storage).supdate = false ∧ (t.chan .storage).complete = true ∧
      (t.chan .storage).next = (s.chan .storage).start ∧
      (t.chan .storage).limit = (s.chan .storage).stop)

/-- 42_burst_engine.md R173: the guard, the two cases where it does nothing, the refusal, and the word it
writes, of which only the staged bytes are fixed (the others are free draws, log 9). No completion test, no
line, no hand-back. `calls`: the model's record of the block's calls (log 12). `reply`: the model's port for
what an operation returns (log 11). `oracle`: the accessor's answers as data (log 8). `ready`: the device's
bytes as data (log 14). -/
def Obligations.FlushWritesOneWord : Prop :=
  (∀ s : State, s.cfg.enableGuard = true → (s.chan .storage).enable = false →
    exec .devFlush s = .next { s with reply := .none, calls := .log .flushWhileDisabled :: s.calls }) ∧
  (∀ s : State, (s.cfg.enableGuard = true → (s.chan .storage).enable = true) →
    (s.staging.count = 0 ∨ (s.chan .storage).next.ult (s.chan .storage).limit = false) →
    exec .devFlush s = .next { s with reply := .none }) ∧
  (∀ s : State, (s.cfg.enableGuard = true → (s.chan .storage).enable = true) →
    s.staging.count ≠ 0 → (s.chan .storage).next.ult (s.chan .storage).limit = true →
    ((s.chan .storage).next.toNat % wordBytes ≠ 0 ∨
      ((s.chan .storage).limit - (s.chan .storage).next).toNat < wordBytes) →
    exec .devFlush s = .refused .misaligned) ∧
  (∀ s : State, s.Inv → s.oracle.head? ≠ some .fault →
    (s.cfg.enableGuard = true → (s.chan .storage).enable = true) →
    s.staging.count ≠ 0 → (s.chan .storage).next.ult (s.chan .storage).limit = true →
    (s.chan .storage).next.toNat % wordBytes = 0 →
    wordBytes ≤ ((s.chan .storage).limit - (s.chan .storage).next).toNat →
    ∃ t, exec .devFlush s = .next t ∧
      HoldsBytes t (s.chan .storage).next ((stagedBytes s.staging).take wordBytes) ∧
      SameMemoryOutside (s.chan .storage).next wordBytes s t ∧
      t.chan .storage = { s.chan .storage with next := (s.chan .storage).next + 4 } ∧
      stagedBytes t.staging = (stagedBytes s.staging).drop wordBytes ∧
      t.staging.count = s.staging.count - min wordBytes s.staging.count ∧
      t.calls = s.calls ∧ t.lines = s.lines ∧ t.ready = s.ready ∧ t.reply = .none ∧
      SameOtherChannels .storage s t ∧ SameSetting s t)

/-- 42_burst_engine.md R174: a fault in a flush is recorded as in a pass; `next`, `S` and memory stay.
`oracle`: the accessor's answers as data (log 8). `ready`: the device's bytes as data (log 14). -/
def Obligations.FlushFaultRecordsTheFault : Prop :=
  ∀ (s : State) (later : List BusAnswer), s.oracle = .fault :: later →
    (s.cfg.enableGuard = true → (s.chan .storage).enable = true) →
    s.staging.count ≠ 0 → (s.chan .storage).next.ult (s.chan .storage).limit = true →
    (s.chan .storage).next.toNat % wordBytes = 0 →
    wordBytes ≤ ((s.chan .storage).limit - (s.chan .storage).next).toNat →
    ∃ t, exec .devFlush s = .next t ∧
      t.chan .storage = { s.chan .storage with enable := false, complete := true, busexc := true } ∧
      t.staging = s.staging ∧ SameMemory s t ∧ t.oracle = later ∧ t.ready = s.ready ∧
      (s.cfg.faultIrq = true → LineAt .storage true t) ∧
      (s.cfg.faultIrq = false → ∀ l, t.level l = s.level l) ∧
      SameOtherChannels .storage s t ∧ SameOtherLines .storage s t ∧ SameSetting s t

/-- 10_state.md R35. `used` is what an operation has taken of the accessor's answers: an operation that met
a fault and goes on has set `complete` and `busexc` of `storage` and cleared `enable`; `busexc` rises with
such a fault only, on `storage` only; no operation but system reset clears it, and system reset does.
`oracle`: the accessor's answers as data (log 8). -/
def Obligations.BusexcIsSetOnlyWithAFaultRecord : Prop :=
  (∀ (i : Instr) (s t : State) (used : List BusAnswer), exec i s = .next t →
    s.oracle = used ++ t.oracle → .fault ∈ used →
    (t.chan .storage).complete = true ∧ (t.chan .storage).busexc = true ∧
      (t.chan .storage).enable = false) ∧
  (∀ (i : Instr) (s t : State) (ch : Chan), exec i s = .next t → (s.chan ch).busexc = false →
    (t.chan ch).busexc = true →
    ch = .storage ∧ (t.chan ch).complete = true ∧ (t.chan ch).enable = false ∧
      ∃ used, s.oracle = used ++ t.oracle ∧ .fault ∈ used) ∧
  (∀ (i : Instr) (s t : State) (ch : Chan), exec i s = .next t → kindOf i ≠ .reset →
    (s.chan ch).busexc = true → (t.chan ch).busexc = true) ∧
  (∀ (s : State) (ch : Chan), ∃ t, exec .sysReset s = .next t ∧ (t.chan ch).busexc = false)

/-- 43_block_transfer.md R191, R192, R193: base, size by `READ_SIZE_FROM`, the bytes, and the completion; no
pointer changes; a negative size is refused. `reply`: the model's port for what an operation returns (log
11). -/
def Obligations.MemoryReadReturnsTheBlock : Prop :=
  ∀ (s : State) (ch : Chan) (base x : Addr), ch ≠ .storage →
    (s.cfg.enableGuard = true → (s.chan ch).enable = true) →
    base = (if (s.chan ch).init ≠ 0 then (s.chan ch).init else (s.chan ch).next) →
    x = (match (if s.cfg.turbo then (s.cfg.readSizeFrom.get ch).turbo
          else (s.cfg.readSizeFrom.get ch).plain) with
      | .init => (s.chan ch).init
      | .next => (s.chan ch).next
      | .base => base) →
    ((s.chan ch).limit.toNat < x.toNat → exec (.devMRead ch) s = .refused .underflow) ∧
    (x.toNat ≤ (s.chan ch).limit.toNat →
      ∃ t bytes, exec (.devMRead ch) s = .next t ∧
        t.reply = .block ((s.chan ch).limit - x) bytes ∧
        bytes.length = ((s.chan ch).limit - x).toNat ∧
        (∀ n (h : n < bytes.length), bytes[n] = readByte s.mem (base + BitVec.ofNat 32 n)) ∧
        t.chan ch = { s.chan ch with complete := true, supdate := true } ∧
        OnlyChannel ch s t ∧ LineAt ch true t)

/-- 43_block_transfer.md R194, R196 to R199: a write that is not split (at `init` when it fits before
`limit`, at `next` when `init` is 0), its snapshots, its reload policy and its completion. `reply`: the
model's port for what an operation returns (log 11). `oracle`: the accessor's answers as data (log 8).
`ready`: the device's bytes as data (log 14). -/
def Obligations.MemoryWriteInOnePiece : Prop :=
  ∀ (s : State) (ch : Chan) (bytes : List Byte) (base : Addr), s.Inv → NoFault s → ch ≠ .storage →
    (s.cfg.enableGuard = true → (s.chan ch).enable = true) → bytes.length < 2 ^ 32 →
    ((s.chan ch).init = 0 ∧ base = (s.chan ch).next ∨
      (s.chan ch).init ≠ 0 ∧ base = (s.chan ch).init ∧
        (s.chan ch).init.toNat + bytes.length ≤ (s.chan ch).limit.toNat) →
    ∃ t, exec (.devMWrite ch bytes) s = .next t ∧
      HoldsBytes t base bytes ∧ SameMemoryOutside base bytes.length s t ∧
      t.chan ch =
        { s.chan ch with
          init := 0, savedNext := (s.chan ch).next
          savedLimit := (s.chan ch).next + BitVec.ofNat 32 bytes.length, complete := true
          next := if (s.chan ch).supdate = false ∨ ch = .netRx then (s.chan ch).start
            else (s.chan ch).next
          limit := if (s.chan ch).supdate = false ∨ ch = .netRx then (s.chan ch).stop
            else (s.chan ch).limit } ∧
      t.reply = .none ∧ t.staging = s.staging ∧ t.ready = s.ready ∧ t.draws = s.draws ∧
      SameOtherChannels ch s t ∧ SameOtherLines ch s t ∧ LineAt ch true t ∧ SameSetting s t

/-- 43_block_transfer.md R195: the portion that fits in `[init, limit)` first, the residual at `start`;
where the two overlap, the residual, written later, stands. `reply`: the model's port for what an operation
returns (log 11). `oracle`: the accessor's answers as data (log 8). `ready`: the device's bytes as data (log
14). -/
def Obligations.MemoryWriteSplitsAtLimit : Prop :=
  ∀ (s : State) (ch : Chan) (bytes : List Byte) (room : Nat), s.Inv → NoFault s → ch ≠ .storage →
    (s.cfg.enableGuard = true → (s.chan ch).enable = true) → bytes.length < 2 ^ 32 →
    (s.chan ch).init ≠ 0 → (s.chan ch).init.toNat ≤ (s.chan ch).limit.toNat →
    room = (s.chan ch).limit.toNat - (s.chan ch).init.toNat → room < bytes.length →
    ∃ t, exec (.devMWrite ch bytes) s = .next t ∧
      HoldsBytes t (s.chan ch).start (bytes.drop room) ∧
      (∀ n (h : n < room) (h' : n < bytes.length),
        bytes.length - room ≤ ((s.chan ch).init + BitVec.ofNat 32 n - (s.chan ch).start).toNat →
        readByte t.mem ((s.chan ch).init + BitVec.ofNat 32 n) = bytes[n]) ∧
      (∀ a : Addr, room ≤ (a - (s.chan ch).init).toNat →
        bytes.length - room ≤ (a - (s.chan ch).start).toNat → readByte t.mem a = readByte s.mem a) ∧
      t.chan ch =
        { s.chan ch with
          init := 0, savedNext := (s.chan ch).next
          savedLimit := (s.chan ch).next + BitVec.ofNat 32 bytes.length, complete := true
          next := if (s.chan ch).supdate = false ∨ ch = .netRx then (s.chan ch).start
            else (s.chan ch).next
          limit := if (s.chan ch).supdate = false ∨ ch = .netRx then (s.chan ch).stop
            else (s.chan ch).limit } ∧
      t.reply = .none ∧ t.staging = s.staging ∧ t.ready = s.ready ∧ t.draws = s.draws ∧
      SameOtherChannels ch s t ∧ SameOtherLines ch s t ∧ LineAt ch true t ∧ SameSetting s t

/-- 43_block_transfer.md R201: `init` beyond `limit`, and a fault of the accessor, have no meaning: a fault
on the first write, and one on the second write of a split (R195). `oracle`: the accessor's answers as data
(log 8). -/
def Obligations.MemoryWriteRefusals : Prop :=
  (∀ (s : State) (ch : Chan) (bytes : List Byte), ch ≠ .storage →
    (s.cfg.enableGuard = true → (s.chan ch).enable = true) → (s.chan ch).init ≠ 0 →
    (s.chan ch).limit.toNat < (s.chan ch).init.toNat →
    exec (.devMWrite ch bytes) s = .refused .underflow) ∧
  (∀ (s : State) (ch : Chan) (bytes : List Byte) (later : List BusAnswer), ch ≠ .storage →
    (s.cfg.enableGuard = true → (s.chan ch).enable = true) → s.oracle = .fault :: later →
    ((s.chan ch).init = 0 ∨ (s.chan ch).init.toNat ≤ (s.chan ch).limit.toNat) →
    exec (.devMWrite ch bytes) s = .refused .genericBusFault) ∧
  (∀ (s : State) (ch : Chan) (bytes : List Byte) (later : List BusAnswer), ch ≠ .storage →
    (s.cfg.enableGuard = true → (s.chan ch).enable = true) → s.oracle = .ok :: .fault :: later →
    (s.chan ch).init ≠ 0 → (s.chan ch).init.toNat ≤ (s.chan ch).limit.toNat →
    (s.chan ch).limit.toNat - (s.chan ch).init.toNat < bytes.length →
    exec (.devMWrite ch bytes) s = .refused .genericBusFault)

/-- 43_block_transfer.md R197: software computes the received size as `saved_limit - saved_next`. -/
def Obligations.ReceivedSizeIsTheSnapshotDifference : Prop :=
  ∀ (s t : State) (ch : Chan) (bytes : List Byte), bytes.length < 2 ^ 32 →
    (s.cfg.enableGuard = true → (s.chan ch).enable = true) → exec (.devMWrite ch bytes) s = .next t →
    (t.chan ch).savedNext = (s.chan ch).next ∧
    (t.chan ch).savedLimit = (s.chan ch).next + BitVec.ofNat 32 bytes.length ∧
    ((t.chan ch).savedLimit - (t.chan ch).savedNext).toNat = bytes.length ∧
    (t.chan ch).savedStart = (s.chan ch).savedStart ∧ (t.chan ch).savedStop = (s.chan ch).savedStop

/-- 60_exceptions.md R216: a line rises only in a device call on its channel, and then the channel is
complete; no CSR command, register access or reset leaves a line raised. -/
def Obligations.LinesRiseOnlyAtCompletionsAndFaults : Prop :=
  ∀ (i : Instr) (s t : State) (l : IrqLine), exec i s = .next t → s.level l = false →
    t.level l = true →
    ∃ ch, targetOf s.cfg i = some ch ∧ s.cfg.irq.get ch = some l ∧ (t.chan ch).complete = true ∧
      (kindOf i = .commit ∨ kindOf i = .flush ∧ (t.chan ch).busexc = true ∨ kindOf i = .blockRead ch ∨
        ∃ bytes, kindOf i = .blockWrite ch bytes)

/-- 60_exceptions.md R217, 70_reset_and_hazards.md R241: the only release point is the CSR write to the
line's channel. -/
def Obligations.LinesFallOnlyByCsrWrites : Prop :=
  ∀ (i : Instr) (s t : State) (l : IrqLine), exec i s = .next t → s.level l = true →
    t.level l = false → ∃ c ch v, csrWriteOf s.cfg i = some (c, ch, v) ∧ s.cfg.irq.get ch = some l

/-- 60_exceptions.md R223: the twelve channels are independent in state; only system reset is every
channel's. -/
def Obligations.OtherChannelsAreUntouched : Prop :=
  ∀ (i : Instr) (s t : State) (ch : Chan), exec i s = .next t → kindOf i ≠ .reset →
    targetOf s.cfg i ≠ some ch → t.chan ch = s.chan ch

/-- 20_memory.md R57, 42_burst_engine.md R160: only the storage engine and the memory write transfer store
to memory. -/
def Obligations.MemoryChangesOnlyByTransfers : Prop :=
  ∀ (i : Instr) (s t : State), exec i s = .next t → runsEngine s.cfg i = false →
    (∀ ch bytes, kindOf i ≠ .blockWrite ch bytes) → SameMemory s t

/-- 10_state.md R40, 42_burst_engine.md R160: the staging buffer and the device's ready bytes belong to the
storage channel's operations. `ready`: the device's bytes as data (log 14). -/
def Obligations.StagingChangesOnlyByStorage : Prop :=
  ∀ (i : Instr) (s t : State), exec i s = .next t → runsEngine s.cfg i = false → kindOf i ≠ .reset →
    (∀ c v, csrWriteOf s.cfg i = some (c, .storage, v) → c ≠ .initbuf ∧ c ≠ .resetInitbuf) →
    t.staging = s.staging ∧ t.ready = s.ready ∧ t.draws = s.draws

/-- 10_state.md R26: the engine reads `start` and `stop` and never writes them; only register writes (and
reset) do. -/
def Obligations.ReloadPointersChangeOnlyByWrites : Prop :=
  ∀ (i : Instr) (s t : State) (ch : Chan), exec i s = .next t → kindOf i ≠ .reset →
    ((∀ off v, kindOf i ≠ .store .start off v) → (t.chan ch).start = (s.chan ch).start) ∧
    ((∀ off v, kindOf i ≠ .store .stop off v) → (t.chan ch).stop = (s.chan ch).stop)

/-- 10_state.md R27, R30: the snapshot registers and `size` do not mirror anything; `saved_next` and
`saved_limit` change by their own writes and by a memory write, the others by their own writes only. -/
def Obligations.SnapshotsChangeOnlyByWritesAndExtents : Prop :=
  ∀ (i : Instr) (s t : State) (ch : Chan), exec i s = .next t → kindOf i ≠ .reset →
    ((∀ off v, kindOf i ≠ .store .savedStart off v) → (t.chan ch).savedStart = (s.chan ch).savedStart) ∧
    ((∀ off v, kindOf i ≠ .store .savedStop off v) → (t.chan ch).savedStop = (s.chan ch).savedStop) ∧
    ((∀ off v, kindOf i ≠ .store .size off v) → (t.chan ch).size = (s.chan ch).size) ∧
    ((∀ off v, kindOf i ≠ .store .savedNext off v) → (∀ c bs, kindOf i ≠ .blockWrite c bs) →
      (t.chan ch).savedNext = (s.chan ch).savedNext) ∧
    ((∀ off v, kindOf i ≠ .store .savedLimit off v) → (∀ c bs, kindOf i ≠ .blockWrite c bs) →
      (t.chan ch).savedLimit = (s.chan ch).savedLimit)

/-- 00_scope.md R6, 10_state.md R31: the block reads the configuration and never writes it. -/
def Obligations.ConfigurationNeverChanges : Prop :=
  ∀ s t : State, step s = .next t → t.cfg = s.cfg

/-- 60_exceptions.md R214: every refusal of an operation is one of the reasons the spec names, raised where
it says. -/
def Obligations.OnlyTheSpecsRefusals : Prop :=
  ∀ (i : Instr) (s : State) (r : Refusal), exec i s = .refused r →
    (r = .misaligned ∧ runsEngine s.cfg i = true) ∨
    (r = .underflow ∧ ((∃ ch, kindOf i = .blockRead ch) ∨ ∃ ch bytes, kindOf i = .blockWrite ch bytes)) ∨
    (r = .genericBusFault ∧ ∃ ch bytes, kindOf i = .blockWrite ch bytes) ∨
    (r = .notGeneric ∧
      (kindOf i = .blockRead .storage ∨ ∃ bytes, kindOf i = .blockWrite .storage bytes)) ∨
    (r = .width ∧ ((∃ reg off w, kindOf i = .read reg off w ∧ w ≠ ownWidth s.cfg reg) ∨
      (∃ reg off v, kindOf i = .store reg off v ∧ v.width ≠ ownWidth s.cfg reg) ∨
      ∃ c ch v, kindOf i = .command c ch v ∧ csrValueWidth v ≠ csrWidth s.cfg.gen))

/-- 70_reset_and_hazards.md R240, R241: every field of every channel 0, staging empty and zeroed; memory,
lines, configuration and devices untouched; nothing called. `calls`: the model's record of the block's calls
(log 12). -/
def Obligations.SystemResetZeroesTheBlock : Prop :=
  ∀ s : State, ∃ t, exec .sysReset s = .next t ∧
    (∀ ch, t.chan ch = ⟨.m2d, false, false, false, false, 0, 0, 0, 0, 0, 0, 0, 0, 0, 0⟩) ∧
    t.staging.count = 0 ∧ t.staging.buf = List.replicate s.cfg.burst 0 ∧
    SameMemory s t ∧ t.mem = s.mem ∧ t.lines = s.lines ∧ t.calls = s.calls ∧ SameInputs s t ∧
    SameSetting s t

/-- 10_state.md R39: the state after reset, under every configuration; `State.reset` is such a state, of the
configuration it holds (the model's choice, log 1, 2, of which nothing is said here). -/
def Obligations.ResetStateIsZero : Prop :=
  (∀ (c : Config) (ch : Chan), (State.resetWith c).chan ch =
    ⟨.m2d, false, false, false, false, 0, 0, 0, 0, 0, 0, 0, 0, 0, 0⟩) ∧
  (∀ c : Config, (State.resetWith c).staging.count = 0 ∧
    (State.resetWith c).staging.buf = List.replicate c.burst 0 ∧ (State.resetWith c).cfg = c) ∧
  State.reset = State.resetWith State.reset.cfg

/-- A step takes the oldest pending operation, gives it its free inputs, and runs what its frame decodes to;
a frame that spells no operation is refused by name; with nothing pending the block is passive (log 4).
`oracle`: the accessor's answers as data (log 8). `ready`: the device's bytes as data (log 14). -/
def Obligations.StepRunsTheDecodedOperation : Prop :=
  (∀ (s : State) (r : Request) (rest : List Request) (i : Instr), s.pending = r :: rest →
    decode s.cfg r.frame = .ok i →
    step s = exec i { s with pending := rest, ready := s.ready ++ r.feed, oracle := r.oracle }) ∧
  (∀ (s : State) (r : Request) (rest : List Request) (e : DecodeError), s.pending = r :: rest →
    decode s.cfg r.frame = .error e →
    step s = .refused (match e with
      | .noSuchRegister => .noSuchRegister
      | .width => .width
      | .badFrame => .badFrame)) ∧
  (∀ s : State, s.pending = [] → step s = .next s)

/-- The invariant holds at reset, under every configuration the spec admits (and the default one is such). -/
def Obligations.InvariantHoldsAtReset : Prop :=
  Config.default.Wf ∧ State.reset.Inv ∧ ∀ c : Config, c.Wf → (State.resetWith c).Inv

/-- 10_state.md R28, R36: `0 <= S.count <= BURST`, with a buffer of `BURST` bytes, an admitted configuration
and memory in canonical form (log 7), is kept by every step, from every state that has it. -/
def Obligations.StepKeepsTheInvariant : Prop :=
  ∀ s t : State, s.Inv → step s = .next t → t.Inv

/-- 20_memory.md R50, R52: byte `i` of a write goes to `addr + i`, modulo 2^32, and no other byte changes;
the canonical form is kept, and canonical memories that read alike are equal (log 7). -/
def Obligations.MemoryReadsBackWrites : Prop :=
  (∀ (m : Memory) (a : Addr) (bs : List Byte), m.wf = true → bs.length ≤ 2 ^ 32 →
    (writeBytes m a bs).wf = true ∧
    (∀ i (h : i < bs.length), readByte (writeBytes m a bs) (a + BitVec.ofNat 32 i) = bs[i]) ∧
    (∀ x : Addr, bs.length ≤ (x - a).toNat → readByte (writeBytes m a bs) x = readByte m x) ∧
    readBytes (writeBytes m a bs) a bs.length = bs) ∧
  (∀ m m' : Memory, m.wf = true → m'.wf = true → (∀ a, readByte m a = readByte m' a) → m = m')

/-- 20_memory.md R58: within a group the registers lie in the listed order, 4 bytes apart, at +0, +4, +8,
+12. -/
def Obligations.RegisterBlocksAreFourApart : Prop :=
  ∀ (g : RegGroup) (ch : Chan),
    Config.regAddr g 0 ch = Config.regBlock g ch ∧
    Config.regAddr g 1 ch = Config.regBlock g ch + 4 ∧
    Config.regAddr g 2 ch = Config.regBlock g ch + 8 ∧
    Config.regAddr g 3 ch = Config.regBlock g ch + 12 ∧
    ([Reg.savedNext, .savedLimit, .savedStart, .savedStop].map regIndex = [0, 1, 2, 3] ∧
      [Reg.next, .limit, .start, .stop].map regIndex = [0, 1, 2, 3] ∧
      [Reg.init, .size].map regIndex = [0, 1])
end

