-- ==== Sys2Proof/Laws/State.lean ====
section
/-! SUPPORT. The small lemmas of the state: one per field and update, so that no proof unfolds a record
update, and the get and set laws of a per-channel table. -/

namespace Sys2Proof

@[simp] theorem PerChan.get_set_same {α : Type} (p : PerChan α) (ch : Chan) (v : α) :
    (p.set ch v).get ch = v := by cases ch <;> rfl

@[simp] theorem PerChan.get_set_ne {α : Type} (p : PerChan α) {ch ch' : Chan} (v : α) (h : ch' ≠ ch) :
    (p.set ch v).get ch' = p.get ch' := by
  cases ch <;> cases ch' <;> first | rfl | exact absurd rfl h

theorem PerChan.get_set {α : Type} (p : PerChan α) (ch ch' : Chan) (v : α) :
    (p.set ch v).get ch' = if ch' = ch then v else p.get ch' := by
  split
  · next h => rw [h, PerChan.get_set_same]
  · next h => exact PerChan.get_set_ne p v h

@[simp] theorem PerChan.get_fill {α : Type} (v : α) (ch : Chan) : (PerChan.fill v).get ch = v := by
  cases ch <;> rfl

theorem PerChan.ext_get {α : Type} {p q : PerChan α} (h : ∀ ch, p.get ch = q.get ch) : p = q := by
  have h1 := h .storage
  have h2 := h .soundOut
  have h3 := h .opticalDisk
  have h4 := h .soundIn
  have h5 := h .printer
  have h6 := h .serial
  have h7 := h .dsp
  have h8 := h .netTx
  have h9 := h .netRx
  have h10 := h .video
  have h11 := h .m2r
  have h12 := h .r2m
  cases p
  cases q
  simp only [PerChan.get] at *
  subst_vars
  rfl

@[simp] theorem PerChan.set_get_self {α : Type} (p : PerChan α) (ch : Chan) : p.set ch (p.get ch) = p := by
  cases ch <;> rfl

theorem Chan.mem_all (ch : Chan) : ch ∈ Chan.all := by cases ch <;> decide

namespace Machine

@[simp] theorem State.cfg_setChan (s : State) (ch : Chan) (c : Channel) : (s.setChan ch c).cfg = s.cfg := rfl
@[simp] theorem State.staging_setChan (s : State) (ch : Chan) (c : Channel) : (s.setChan ch c).staging = s.staging := rfl
@[simp] theorem State.mem_setChan (s : State) (ch : Chan) (c : Channel) : (s.setChan ch c).mem = s.mem := rfl
@[simp] theorem State.lines_setChan (s : State) (ch : Chan) (c : Channel) : (s.setChan ch c).lines = s.lines := rfl
@[simp] theorem State.ready_setChan (s : State) (ch : Chan) (c : Channel) : (s.setChan ch c).ready = s.ready := rfl
@[simp] theorem State.oracle_setChan (s : State) (ch : Chan) (c : Channel) : (s.setChan ch c).oracle = s.oracle := rfl
@[simp] theorem State.draws_setChan (s : State) (ch : Chan) (c : Channel) : (s.setChan ch c).draws = s.draws := rfl
@[simp] theorem State.reply_setChan (s : State) (ch : Chan) (c : Channel) : (s.setChan ch c).reply = s.reply := rfl
@[simp] theorem State.calls_setChan (s : State) (ch : Chan) (c : Channel) : (s.setChan ch c).calls = s.calls := rfl
@[simp] theorem State.pending_setChan (s : State) (ch : Chan) (c : Channel) : (s.setChan ch c).pending = s.pending := rfl

@[simp] theorem State.cfg_modChan (s : State) (ch : Chan) (f : Channel → Channel) : (s.modChan ch f).cfg = s.cfg := rfl
@[simp] theorem State.staging_modChan (s : State) (ch : Chan) (f : Channel → Channel) : (s.modChan ch f).staging = s.staging := rfl
@[simp] theorem State.mem_modChan (s : State) (ch : Chan) (f : Channel → Channel) : (s.modChan ch f).mem = s.mem := rfl
@[simp] theorem State.lines_modChan (s : State) (ch : Chan) (f : Channel → Channel) : (s.modChan ch f).lines = s.lines := rfl
@[simp] theorem State.ready_modChan (s : State) (ch : Chan) (f : Channel → Channel) : (s.modChan ch f).ready = s.ready := rfl
@[simp] theorem State.oracle_modChan (s : State) (ch : Chan) (f : Channel → Channel) : (s.modChan ch f).oracle = s.oracle := rfl
@[simp] theorem State.draws_modChan (s : State) (ch : Chan) (f : Channel → Channel) : (s.modChan ch f).draws = s.draws := rfl
@[simp] theorem State.reply_modChan (s : State) (ch : Chan) (f : Channel → Channel) : (s.modChan ch f).reply = s.reply := rfl
@[simp] theorem State.calls_modChan (s : State) (ch : Chan) (f : Channel → Channel) : (s.modChan ch f).calls = s.calls := rfl
@[simp] theorem State.pending_modChan (s : State) (ch : Chan) (f : Channel → Channel) : (s.modChan ch f).pending = s.pending := rfl

@[simp] theorem State.cfg_note (s : State) (c : Call) : (s.note c).cfg = s.cfg := rfl
@[simp] theorem State.chans_note (s : State) (c : Call) : (s.note c).chans = s.chans := rfl
@[simp] theorem State.staging_note (s : State) (c : Call) : (s.note c).staging = s.staging := rfl
@[simp] theorem State.mem_note (s : State) (c : Call) : (s.note c).mem = s.mem := rfl
@[simp] theorem State.lines_note (s : State) (c : Call) : (s.note c).lines = s.lines := rfl
@[simp] theorem State.ready_note (s : State) (c : Call) : (s.note c).ready = s.ready := rfl
@[simp] theorem State.oracle_note (s : State) (c : Call) : (s.note c).oracle = s.oracle := rfl
@[simp] theorem State.draws_note (s : State) (c : Call) : (s.note c).draws = s.draws := rfl
@[simp] theorem State.reply_note (s : State) (c : Call) : (s.note c).reply = s.reply := rfl
@[simp] theorem State.pending_note (s : State) (c : Call) : (s.note c).pending = s.pending := rfl

@[simp] theorem State.cfg_logMsg (s : State) (m : LogMsg) : (s.logMsg m).cfg = s.cfg := rfl
@[simp] theorem State.chans_logMsg (s : State) (m : LogMsg) : (s.logMsg m).chans = s.chans := rfl
@[simp] theorem State.staging_logMsg (s : State) (m : LogMsg) : (s.logMsg m).staging = s.staging := rfl
@[simp] theorem State.mem_logMsg (s : State) (m : LogMsg) : (s.logMsg m).mem = s.mem := rfl
@[simp] theorem State.lines_logMsg (s : State) (m : LogMsg) : (s.logMsg m).lines = s.lines := rfl
@[simp] theorem State.ready_logMsg (s : State) (m : LogMsg) : (s.logMsg m).ready = s.ready := rfl
@[simp] theorem State.oracle_logMsg (s : State) (m : LogMsg) : (s.logMsg m).oracle = s.oracle := rfl
@[simp] theorem State.draws_logMsg (s : State) (m : LogMsg) : (s.logMsg m).draws = s.draws := rfl
@[simp] theorem State.reply_logMsg (s : State) (m : LogMsg) : (s.logMsg m).reply = s.reply := rfl
@[simp] theorem State.pending_logMsg (s : State) (m : LogMsg) : (s.logMsg m).pending = s.pending := rfl

@[simp] theorem State.cfg_driveLine (s : State) (l : Option IrqLine) (b : Bool) : (s.driveLine l b).cfg = s.cfg := by cases l <;> rfl
@[simp] theorem State.chans_driveLine (s : State) (l : Option IrqLine) (b : Bool) : (s.driveLine l b).chans = s.chans := by cases l <;> rfl
@[simp] theorem State.staging_driveLine (s : State) (l : Option IrqLine) (b : Bool) : (s.driveLine l b).staging = s.staging := by cases l <;> rfl
@[simp] theorem State.mem_driveLine (s : State) (l : Option IrqLine) (b : Bool) : (s.driveLine l b).mem = s.mem := by cases l <;> rfl
@[simp] theorem State.ready_driveLine (s : State) (l : Option IrqLine) (b : Bool) : (s.driveLine l b).ready = s.ready := by cases l <;> rfl
@[simp] theorem State.oracle_driveLine (s : State) (l : Option IrqLine) (b : Bool) : (s.driveLine l b).oracle = s.oracle := by cases l <;> rfl
@[simp] theorem State.draws_driveLine (s : State) (l : Option IrqLine) (b : Bool) : (s.driveLine l b).draws = s.draws := by cases l <;> rfl
@[simp] theorem State.reply_driveLine (s : State) (l : Option IrqLine) (b : Bool) : (s.driveLine l b).reply = s.reply := by cases l <;> rfl
@[simp] theorem State.pending_driveLine (s : State) (l : Option IrqLine) (b : Bool) : (s.driveLine l b).pending = s.pending := by cases l <;> rfl

@[simp] theorem State.cfg_irqSet (s : State) (ch : Chan) : (s.irqSet ch).cfg = s.cfg := by simp [State.irqSet]
@[simp] theorem State.chans_irqSet (s : State) (ch : Chan) : (s.irqSet ch).chans = s.chans := by simp [State.irqSet]
@[simp] theorem State.staging_irqSet (s : State) (ch : Chan) : (s.irqSet ch).staging = s.staging := by simp [State.irqSet]
@[simp] theorem State.mem_irqSet (s : State) (ch : Chan) : (s.irqSet ch).mem = s.mem := by simp [State.irqSet]
@[simp] theorem State.ready_irqSet (s : State) (ch : Chan) : (s.irqSet ch).ready = s.ready := by simp [State.irqSet]
@[simp] theorem State.oracle_irqSet (s : State) (ch : Chan) : (s.irqSet ch).oracle = s.oracle := by simp [State.irqSet]
@[simp] theorem State.draws_irqSet (s : State) (ch : Chan) : (s.irqSet ch).draws = s.draws := by simp [State.irqSet]
@[simp] theorem State.reply_irqSet (s : State) (ch : Chan) : (s.irqSet ch).reply = s.reply := by simp [State.irqSet]
@[simp] theorem State.pending_irqSet (s : State) (ch : Chan) : (s.irqSet ch).pending = s.pending := by simp [State.irqSet]

@[simp] theorem State.cfg_irqRelease (s : State) (ch : Chan) : (s.irqRelease ch).cfg = s.cfg := by simp [State.irqRelease]
@[simp] theorem State.chans_irqRelease (s : State) (ch : Chan) : (s.irqRelease ch).chans = s.chans := by simp [State.irqRelease]
@[simp] theorem State.staging_irqRelease (s : State) (ch : Chan) : (s.irqRelease ch).staging = s.staging := by simp [State.irqRelease]
@[simp] theorem State.mem_irqRelease (s : State) (ch : Chan) : (s.irqRelease ch).mem = s.mem := by simp [State.irqRelease]
@[simp] theorem State.ready_irqRelease (s : State) (ch : Chan) : (s.irqRelease ch).ready = s.ready := by simp [State.irqRelease]
@[simp] theorem State.oracle_irqRelease (s : State) (ch : Chan) : (s.irqRelease ch).oracle = s.oracle := by simp [State.irqRelease]
@[simp] theorem State.draws_irqRelease (s : State) (ch : Chan) : (s.irqRelease ch).draws = s.draws := by simp [State.irqRelease]
@[simp] theorem State.reply_irqRelease (s : State) (ch : Chan) : (s.irqRelease ch).reply = s.reply := by simp [State.irqRelease]
@[simp] theorem State.pending_irqRelease (s : State) (ch : Chan) : (s.irqRelease ch).pending = s.pending := by simp [State.irqRelease]

@[simp] theorem State.cfg_devInitBuffers (s : State) (ch : Chan) : (s.devInitBuffers ch).cfg = s.cfg := rfl
@[simp] theorem State.chans_devInitBuffers (s : State) (ch : Chan) : (s.devInitBuffers ch).chans = s.chans := rfl
@[simp] theorem State.staging_devInitBuffers (s : State) (ch : Chan) : (s.devInitBuffers ch).staging = s.staging := rfl
@[simp] theorem State.mem_devInitBuffers (s : State) (ch : Chan) : (s.devInitBuffers ch).mem = s.mem := rfl
@[simp] theorem State.lines_devInitBuffers (s : State) (ch : Chan) : (s.devInitBuffers ch).lines = s.lines := rfl
@[simp] theorem State.ready_devInitBuffers (s : State) (ch : Chan) : (s.devInitBuffers ch).ready = s.ready := rfl
@[simp] theorem State.oracle_devInitBuffers (s : State) (ch : Chan) : (s.devInitBuffers ch).oracle = s.oracle := rfl
@[simp] theorem State.draws_devInitBuffers (s : State) (ch : Chan) : (s.devInitBuffers ch).draws = s.draws := rfl
@[simp] theorem State.reply_devInitBuffers (s : State) (ch : Chan) : (s.devInitBuffers ch).reply = s.reply := rfl
@[simp] theorem State.pending_devInitBuffers (s : State) (ch : Chan) : (s.devInitBuffers ch).pending = s.pending := rfl

@[simp] theorem State.cfg_devHandBack (s : State) : (s.devHandBack).cfg = s.cfg := rfl
@[simp] theorem State.chans_devHandBack (s : State) : (s.devHandBack).chans = s.chans := rfl
@[simp] theorem State.staging_devHandBack (s : State) : (s.devHandBack).staging = s.staging := rfl
@[simp] theorem State.mem_devHandBack (s : State) : (s.devHandBack).mem = s.mem := rfl
@[simp] theorem State.lines_devHandBack (s : State) : (s.devHandBack).lines = s.lines := rfl
@[simp] theorem State.ready_devHandBack (s : State) : (s.devHandBack).ready = s.ready := rfl
@[simp] theorem State.oracle_devHandBack (s : State) : (s.devHandBack).oracle = s.oracle := rfl
@[simp] theorem State.draws_devHandBack (s : State) : (s.devHandBack).draws = s.draws := rfl
@[simp] theorem State.reply_devHandBack (s : State) : (s.devHandBack).reply = s.reply := rfl
@[simp] theorem State.pending_devHandBack (s : State) : (s.devHandBack).pending = s.pending := rfl

@[simp] theorem State.cfg_answer (s : State) (r : Reply) : (s.answer r).cfg = s.cfg := rfl
@[simp] theorem State.chans_answer (s : State) (r : Reply) : (s.answer r).chans = s.chans := rfl
@[simp] theorem State.staging_answer (s : State) (r : Reply) : (s.answer r).staging = s.staging := rfl
@[simp] theorem State.mem_answer (s : State) (r : Reply) : (s.answer r).mem = s.mem := rfl
@[simp] theorem State.lines_answer (s : State) (r : Reply) : (s.answer r).lines = s.lines := rfl
@[simp] theorem State.ready_answer (s : State) (r : Reply) : (s.answer r).ready = s.ready := rfl
@[simp] theorem State.oracle_answer (s : State) (r : Reply) : (s.answer r).oracle = s.oracle := rfl
@[simp] theorem State.draws_answer (s : State) (r : Reply) : (s.answer r).draws = s.draws := rfl
@[simp] theorem State.calls_answer (s : State) (r : Reply) : (s.answer r).calls = s.calls := rfl
@[simp] theorem State.pending_answer (s : State) (r : Reply) : (s.answer r).pending = s.pending := rfl

@[simp] theorem State.cfg_fill (s : State) : (s.fill).cfg = s.cfg := rfl
@[simp] theorem State.chans_fill (s : State) : (s.fill).chans = s.chans := rfl
@[simp] theorem State.mem_fill (s : State) : (s.fill).mem = s.mem := rfl
@[simp] theorem State.lines_fill (s : State) : (s.fill).lines = s.lines := rfl
@[simp] theorem State.oracle_fill (s : State) : (s.fill).oracle = s.oracle := rfl
@[simp] theorem State.draws_fill (s : State) : (s.fill).draws = s.draws := rfl
@[simp] theorem State.reply_fill (s : State) : (s.fill).reply = s.reply := rfl
@[simp] theorem State.calls_fill (s : State) : (s.fill).calls = s.calls := rfl
@[simp] theorem State.pending_fill (s : State) : (s.fill).pending = s.pending := rfl

@[simp] theorem State.cfg_begin (s : State) (r : Request) (rest : List Request) : (s.begin r rest).cfg = s.cfg := rfl
@[simp] theorem State.chans_begin (s : State) (r : Request) (rest : List Request) : (s.begin r rest).chans = s.chans := rfl
@[simp] theorem State.staging_begin (s : State) (r : Request) (rest : List Request) : (s.begin r rest).staging = s.staging := rfl
@[simp] theorem State.mem_begin (s : State) (r : Request) (rest : List Request) : (s.begin r rest).mem = s.mem := rfl
@[simp] theorem State.lines_begin (s : State) (r : Request) (rest : List Request) : (s.begin r rest).lines = s.lines := rfl
@[simp] theorem State.draws_begin (s : State) (r : Request) (rest : List Request) : (s.begin r rest).draws = s.draws := rfl
@[simp] theorem State.reply_begin (s : State) (r : Request) (rest : List Request) : (s.begin r rest).reply = s.reply := rfl
@[simp] theorem State.calls_begin (s : State) (r : Request) (rest : List Request) : (s.begin r rest).calls = s.calls := rfl

@[simp] theorem State.reply_answer (s : State) (r : Reply) : (s.answer r).reply = r := rfl
@[simp] theorem State.pending_begin (s : State) (r : Request) (rest : List Request) :
    (s.begin r rest).pending = rest := rfl
@[simp] theorem State.oracle_begin (s : State) (r : Request) (rest : List Request) :
    (s.begin r rest).oracle = r.oracle := rfl
@[simp] theorem State.ready_begin (s : State) (r : Request) (rest : List Request) :
    (s.begin r rest).ready = s.ready ++ r.feed := rfl
@[simp] theorem State.calls_note (s : State) (c : Call) : (s.note c).calls = c :: s.calls := rfl
@[simp] theorem State.calls_logMsg (s : State) (m : LogMsg) :
    (s.logMsg m).calls = .log m :: s.calls := rfl
@[simp] theorem State.calls_devHandBack (s : State) :
    s.devHandBack.calls = .devHandBack :: s.calls := rfl
@[simp] theorem State.calls_devInitBuffers (s : State) (ch : Chan) :
    (s.devInitBuffers ch).calls = .devInitBuffers ch :: s.calls := rfl

/-! ### Channels -/

@[simp] theorem State.chan_setChan_same (s : State) (ch : Chan) (c : Channel) :
    (s.setChan ch c).chan ch = c := PerChan.get_set_same _ _ _

@[simp] theorem State.chan_setChan_ne (s : State) {ch ch' : Chan} (c : Channel) (h : ch' ≠ ch) :
    (s.setChan ch c).chan ch' = s.chan ch' := PerChan.get_set_ne _ _ h

@[simp] theorem State.chan_modChan_same (s : State) (ch : Chan) (f : Channel → Channel) :
    (s.modChan ch f).chan ch = f (s.chan ch) := PerChan.get_set_same _ _ _

@[simp] theorem State.chan_modChan_ne (s : State) {ch ch' : Chan} (f : Channel → Channel) (h : ch' ≠ ch) :
    (s.modChan ch f).chan ch' = s.chan ch' := PerChan.get_set_ne _ _ h

theorem State.chan_modChan (s : State) (ch ch' : Chan) (f : Channel → Channel) :
    (s.modChan ch f).chan ch' = if ch' = ch then f (s.chan ch) else s.chan ch' :=
  PerChan.get_set _ _ _ _

@[simp] theorem State.chan_note (s : State) (c : Call) (k : Chan) : (s.note c).chan k = s.chan k := by
  simp [State.chan]
@[simp] theorem State.chan_logMsg (s : State) (m : LogMsg) (k : Chan) : (s.logMsg m).chan k = s.chan k := by
  simp [State.chan]
@[simp] theorem State.chan_driveLine (s : State) (l : Option IrqLine) (b : Bool) (k : Chan) : (s.driveLine l b).chan k = s.chan k := by
  simp [State.chan]
@[simp] theorem State.chan_irqSet (s : State) (ch : Chan) (k : Chan) : (s.irqSet ch).chan k = s.chan k := by
  simp [State.chan]
@[simp] theorem State.chan_irqRelease (s : State) (ch : Chan) (k : Chan) : (s.irqRelease ch).chan k = s.chan k := by
  simp [State.chan]
@[simp] theorem State.chan_devInitBuffers (s : State) (ch : Chan) (k : Chan) : (s.devInitBuffers ch).chan k = s.chan k := by
  simp [State.chan]
@[simp] theorem State.chan_devHandBack (s : State) (k : Chan) : (s.devHandBack).chan k = s.chan k := by
  simp [State.chan]
@[simp] theorem State.chan_answer (s : State) (r : Reply) (k : Chan) : (s.answer r).chan k = s.chan k := by
  simp [State.chan]
@[simp] theorem State.chan_fill (s : State) (k : Chan) : (s.fill).chan k = s.chan k := by
  simp [State.chan]
@[simp] theorem State.chan_begin (s : State) (r : Request) (rest : List Request) (k : Chan) : (s.begin r rest).chan k = s.chan k := by
  simp [State.chan]

/-! ### Lines -/

@[simp] theorem State.level_setLines (s : State) (ls : PerChan Bool) (l : IrqLine) :
    ({ s with lines := ls } : State).level l = ls.get l.owner := rfl

/-- Driving a line changes that line's level and no other (60_exceptions.md R218). -/
theorem State.level_driveLine (s : State) (o : Option IrqLine) (b : Bool) (l : IrqLine) :
    (s.driveLine o b).level l = if o = some l then b else s.level l := by
  cases o with
  | none => simp [State.driveLine]
  | some k =>
    obtain ⟨k⟩ := k
    obtain ⟨l⟩ := l
    by_cases h : l = k
    · subst h
      simp [State.driveLine, State.level]
    · have h' : ¬k = l := fun e => h e.symm
      simp [State.driveLine, State.level, h, h']

theorem State.level_irqSet (s : State) (ch : Chan) (l : IrqLine) :
    (s.irqSet ch).level l = if s.cfg.irq.get ch = some l then true else s.level l :=
  State.level_driveLine _ _ _ _

theorem State.level_irqRelease (s : State) (ch : Chan) (l : IrqLine) :
    (s.irqRelease ch).level l = if s.cfg.irq.get ch = some l then false else s.level l :=
  State.level_driveLine _ _ _ _

@[simp] theorem State.level_setChan (s : State) (ch : Chan) (c : Channel) (l : IrqLine) : (s.setChan ch c).level l = s.level l := rfl
@[simp] theorem State.level_modChan (s : State) (ch : Chan) (f : Channel → Channel) (l : IrqLine) : (s.modChan ch f).level l = s.level l := rfl
@[simp] theorem State.level_note (s : State) (c : Call) (l : IrqLine) : (s.note c).level l = s.level l := rfl
@[simp] theorem State.level_logMsg (s : State) (m : LogMsg) (l : IrqLine) : (s.logMsg m).level l = s.level l := rfl
@[simp] theorem State.level_devInitBuffers (s : State) (ch : Chan) (l : IrqLine) : (s.devInitBuffers ch).level l = s.level l := rfl
@[simp] theorem State.level_devHandBack (s : State) (l : IrqLine) : (s.devHandBack).level l = s.level l := rfl
@[simp] theorem State.level_answer (s : State) (r : Reply) (l : IrqLine) : (s.answer r).level l = s.level l := rfl
@[simp] theorem State.level_fill (s : State) (l : IrqLine) : (s.fill).level l = s.level l := rfl
@[simp] theorem State.level_begin (s : State) (r : Request) (rest : List Request) (l : IrqLine) : (s.begin r rest).level l = s.level l := rfl

/-! ### The reset state -/

@[simp] theorem State.chan_resetWith (c : Config) (ch : Chan) :
    (State.resetWith c).chan ch = Channel.zero := by simp [State.chan, State.resetWith]

@[simp] theorem State.level_resetWith (c : Config) (l : IrqLine) : (State.resetWith c).level l = false := by
  simp [State.level, State.resetWith]

end Machine

end Sys2Proof
end

