-- ==== Sys2Proof/Laws/Memory.lean ====
section
/-! SUPPORT. The laws of memory: the canonical form is kept, a read after a write, and reads and writes of
several bytes. -/

namespace Sys2Proof.Machine

/-! ### The canonical form -/

theorem cellsCanonical_cons {k : Option Nat} {a : Nat} {b : Byte} {m : Memory} :
    cellsCanonical k ((a, b) :: m) = true ↔
      (∀ j, k = some j → j < a) ∧ a < 2 ^ 32 ∧ b ≠ unlistedByte ∧ cellsCanonical (some a) m = true := by
  cases k <;> simp [cellsCanonical, and_assoc]

theorem cellsCanonical_mono {k j : Option Nat} {m : Memory} (h : cellsCanonical k m = true)
    (hj : ∀ x, j = some x → ∃ y, k = some y ∧ x ≤ y) : cellsCanonical j m = true := by
  cases m with
  | nil => rfl
  | cons c m =>
    obtain ⟨a, b⟩ := c
    rw [cellsCanonical_cons] at h ⊢
    refine ⟨fun x hx => ?_, h.2⟩
    obtain ⟨y, hy, hxy⟩ := hj x hx
    exact Nat.lt_of_le_of_lt hxy (h.1 y hy)

theorem cellsCanonical_cellCons {k : Option Nat} {a : Nat} {b : Byte} {m : Memory}
    (hk : ∀ j, k = some j → j < a) (ha : a < 2 ^ 32) (h : cellsCanonical (some a) m = true) :
    cellsCanonical k (cellCons a b m) = true := by
  unfold cellCons
  split
  · exact cellsCanonical_mono h fun x hx => ⟨a, rfl, Nat.le_of_lt (hk x hx)⟩
  · next hb => exact cellsCanonical_cons.2 ⟨hk, ha, hb, h⟩

theorem cellsCanonical_cellWrite {k : Option Nat} {m : Memory} {a : Nat} {b : Byte}
    (h : cellsCanonical k m = true) (hk : ∀ j, k = some j → j < a) (ha : a < 2 ^ 32) :
    cellsCanonical k (cellWrite m a b) = true := by
  induction m generalizing k with
  | nil => exact cellsCanonical_cellCons hk ha rfl
  | cons c m ih =>
    obtain ⟨x, y⟩ := c
    have hc := cellsCanonical_cons.1 h
    unfold cellWrite
    split
    · next hlt =>
      refine cellsCanonical_cellCons hk ha (cellsCanonical_cons.2 ⟨fun j hj => ?_, hc.2⟩)
      injection hj with hj
      omega
    · split
      · next heq =>
        subst heq
        exact cellsCanonical_cellCons hk ha hc.2.2.2
      · refine cellsCanonical_cons.2 ⟨hc.1, hc.2.1, hc.2.2.1, ih hc.2.2.2 fun j hj => ?_⟩
        injection hj with hj
        omega

/-- A write keeps the canonical form. -/
theorem wf_writeByte {m : Memory} (h : m.wf = true) (a : Addr) (b : Byte) : (writeByte m a b).wf = true :=
  cellsCanonical_cellWrite h (fun _ hj => nomatch hj) a.isLt

theorem wf_writeBytes {m : Memory} (h : m.wf = true) (a : Addr) (bs : List Byte) :
    (writeBytes m a bs).wf = true := by
  induction bs generalizing m a with
  | nil => exact h
  | cons b bs ih => exact ih (wf_writeByte h a b) _

/-! ### One byte -/

theorem cellRead_below {k a : Nat} {m : Memory} (h : cellsCanonical (some k) m = true) (ha : a ≤ k) :
    cellRead m a = unlistedByte := by
  cases m with
  | nil => rfl
  | cons c m =>
    obtain ⟨x, y⟩ := c
    have := (cellsCanonical_cons.1 h).1 k rfl
    simp only [cellRead]
    rw [if_pos (by omega)]

theorem cellRead_cellCons {a x : Nat} {b : Byte} {m : Memory} (h : cellsCanonical (some a) m = true) :
    cellRead (cellCons a b m) x = if x = a then b else cellRead m x := by
  unfold cellCons
  split
  · next hb =>
    split
    · next hx => rw [hb, cellRead_below h (by omega)]
    · rfl
  · simp only [cellRead]
    split
    · next hx => rw [if_neg (by omega), cellRead_below h (by omega)]
    · rfl

theorem cellRead_cellWrite {k : Option Nat} {m : Memory} {a : Nat} {b : Byte}
    (h : cellsCanonical k m = true) (x : Nat) :
    cellRead (cellWrite m a b) x = if x = a then b else cellRead m x := by
  induction m generalizing k with
  | nil => exact cellRead_cellCons rfl
  | cons c m ih =>
    obtain ⟨p, q⟩ := c
    have hc := cellsCanonical_cons.1 h
    unfold cellWrite
    split
    · next hlt =>
      refine cellRead_cellCons (cellsCanonical_cons.2 ⟨fun j hj => ?_, hc.2⟩)
      injection hj with hj
      omega
    · split
      · next heq =>
        subst heq
        rw [cellRead_cellCons hc.2.2.2]
        split
        · rfl
        · next hx =>
          simp only [cellRead]
          split
          · next hlt => rw [cellRead_below hc.2.2.2 (by omega)]
          · rfl
      · simp only [cellRead]
        split
        · rw [if_neg (by omega)]
        · split
          · rw [if_neg (by omega)]
          · exact ih hc.2.2.2

/-- Read after write: the written byte at its address, and every other byte as before. -/
theorem readByte_writeByte {m : Memory} (h : m.wf = true) (a x : Addr) (b : Byte) :
    readByte (writeByte m a b) x = if x = a then b else readByte m x := by
  unfold readByte writeByte
  rw [cellRead_cellWrite h]
  by_cases hx : x = a
  · simp [hx]
  · rw [if_neg hx, if_neg fun e => hx (BitVec.eq_of_toNat_eq e)]

/-! ### Several bytes -/

theorem sub_ne_zero_step {a x : Addr} (h : x ≠ a) :
    (x - (a + 1)).toNat + 1 = (x - a).toNat := by
  have : x.toNat ≠ a.toNat := fun e => h (BitVec.eq_of_toNat_eq e)
  have := x.isLt
  have := a.isLt
  have h1 : (1 : Addr).toNat = 1 := rfl
  simp only [BitVec.toNat_sub, BitVec.toNat_add, h1]
  omega

/-- After `writeBytes`, the byte at offset `i` below the length is byte `i` of the list, and every other
byte is as before. -/
theorem readByte_writeBytes {m : Memory} (h : m.wf = true) (a : Addr) (bs : List Byte)
    (hl : bs.length ≤ 2 ^ 32) (x : Addr) :
    readByte (writeBytes m a bs) x = (bs[(x - a).toNat]?).getD (readByte m x) := by
  induction bs generalizing m a with
  | nil => rfl
  | cons b bs ih =>
    simp only [List.length_cons] at hl
    rw [writeBytes, ih (wf_writeByte h a b) (a + 1) (by omega), readByte_writeByte h]
    by_cases hx : x = a
    · subst hx
      have h1 : (x - (x + 1)).toNat = 2 ^ 32 - 1 := by
        have := x.isLt
        have h1 : (1 : Addr).toNat = 1 := rfl
        simp only [BitVec.toNat_sub, BitVec.toNat_add, h1]
        omega
      rw [h1, List.getElem?_eq_none (by omega)]
      simp
    · rw [if_neg hx, ← sub_ne_zero_step hx, List.getElem?_cons_succ]

theorem readByte_writeBytes_outside {m : Memory} (h : m.wf = true) (a : Addr) (bs : List Byte)
    (hl : bs.length ≤ 2 ^ 32) {x : Addr} (hx : bs.length ≤ (x - a).toNat) :
    readByte (writeBytes m a bs) x = readByte m x := by
  rw [readByte_writeBytes h a bs hl, List.getElem?_eq_none hx, Option.getD_none]

theorem add_ofNat_sub_self (a : Addr) {i : Nat} (h : i < 2 ^ 32) :
    (a + BitVec.ofNat 32 i - a).toNat = i := by
  have := a.isLt
  simp only [BitVec.toNat_sub, BitVec.toNat_add, BitVec.toNat_ofNat]
  omega

theorem readByte_writeBytes_inside {m : Memory} (h : m.wf = true) (a : Addr) (bs : List Byte)
    (hl : bs.length ≤ 2 ^ 32) {i : Nat} (hi : i < bs.length) :
    readByte (writeBytes m a bs) (a + BitVec.ofNat 32 i) = bs[i] := by
  rw [readByte_writeBytes h a bs hl, add_ofNat_sub_self a (by omega), List.getElem?_eq_getElem hi,
    Option.getD_some]

@[simp] theorem length_readBytes (m : Memory) (a : Addr) (n : Nat) : (readBytes m a n).length = n := by
  induction n generalizing a with
  | zero => rfl
  | succ n ih => simp [readBytes, ih]

theorem getElem_readBytes (m : Memory) (a : Addr) (n i : Nat) (h : i < (readBytes m a n).length) :
    (readBytes m a n)[i] = readByte m (a + BitVec.ofNat 32 i) := by
  induction n generalizing a i with
  | zero => simp at h
  | succ n ih =>
    cases i with
    | zero => simp [readBytes]
    | succ i =>
      simp only [readBytes, List.getElem_cons_succ]
      rw [ih]
      congr 1
      rw [BitVec.add_assoc, Nat.add_comm i 1, BitVec.ofNat_add]
      rfl

end Sys2Proof.Machine
end

