-- ==== Sys2Proof/Laws/Engine.lean ====
section
/-! SUPPORT. What the memory accessor, the fill, the word writes of a burst and one turn of the commit pass
do, said once each; and the rule by which a property kept by each of their parts is kept by the pass. -/

namespace Sys2Proof.Machine

/-! ### The memory accessor -/

/-- The answers left after one `MemWrite`. -/
theorem memWrite_ok {s : State} (a : Addr) (bs : List Byte) (h : s.oracle.head? ≠ some .fault) :
    memWrite a bs s = .ok { s with mem := writeBytes s.mem a bs, oracle := s.oracle.tail } := by
  unfold memWrite
  split
  · next ho => simp [ho]
  · next ho => simp [ho]
  · next ho => simp [ho] at h

theorem memWrite_fault {s : State} (a : Addr) (bs : List Byte) {rest : List BusAnswer}
    (h : s.oracle = .fault :: rest) : memWrite a bs s = .busFault a { s with oracle := rest } := by
  simp [memWrite, h]

/-- Everything a `MemWrite` can do: write all its bytes or none, and use up one answer. -/
theorem memWrite_cases (a : Addr) (bs : List Byte) (s : State) :
    memWrite a bs s = .ok { s with mem := writeBytes s.mem a bs, oracle := s.oracle.tail } ∨
      (s.oracle.head? = some .fault ∧
        memWrite a bs s = .busFault a { s with oracle := s.oracle.tail }) := by
  unfold memWrite
  split <;> simp [*]

theorem writeBytes_append (m : Memory) (a : Addr) (xs ys : List Byte) :
    writeBytes m a (xs ++ ys) = writeBytes (writeBytes m a xs) (a + BitVec.ofNat 32 xs.length) ys := by
  induction xs generalizing m a with
  | nil => simp [writeBytes]
  | cons x xs ih =>
    simp only [List.cons_append, writeBytes, ih, List.length_cons]
    congr 1
    rw [Nat.add_comm xs.length 1, BitVec.ofNat_add, ← BitVec.add_assoc]
    rfl

/-! ### The staging buffer -/

@[simp] theorem length_stagedBytes {st : Staging} (h : st.count ≤ st.buf.length) :
    (stagedBytes st).length = st.count := by simp [stagedBytes, h]

theorem stagedBytes_stagePush {st : Staging} (b : Byte) (h : st.count < st.buf.length) :
    stagedBytes (stagePush st b) = stagedBytes st ++ [b] := by
  apply List.ext_getElem?
  intro i
  simp only [stagedBytes, stagePush, List.getElem?_take, List.getElem?_append, List.length_take,
    List.getElem?_set]
  rcases Nat.lt_trichotomy i st.count with hi | hi | hi
  · simp [hi, Nat.lt_succ_of_lt hi, show ¬st.count = i by omega, show i < st.buf.length by omega]
  · subst hi
    simp [h, Nat.min_eq_left (Nat.le_of_lt h)]
  · simp [show ¬i < st.count + 1 by omega, show ¬i < st.count by omega]
    omega

@[simp] theorem length_buf_stagePush (st : Staging) (b : Byte) :
    (stagePush st b).buf.length = st.buf.length := by simp [stagePush]

@[simp] theorem count_stagePush (st : Staging) (b : Byte) : (stagePush st b).count = st.count + 1 := rfl

/-- The fill moves bytes from the device into staging, in order, until a burst is staged or the device has
no more (42_burst_engine.md R163). -/
theorem fillFrom_spec (burst : Nat) (ready : List Byte) (st : Staging) (hc : st.count ≤ burst)
    (hb : st.buf.length = burst) :
    stagedBytes (fillFrom burst ready st).1 = (stagedBytes st ++ ready).take burst ∧
      (fillFrom burst ready st).2 = (stagedBytes st ++ ready).drop burst ∧
      (fillFrom burst ready st).1.count = min burst (st.count + ready.length) ∧
      (fillFrom burst ready st).1.buf.length = burst := by
  have hl : (stagedBytes st).length = st.count := length_stagedBytes (by omega)
  induction ready generalizing st with
  | nil =>
    refine ⟨?_, ?_, ?_, hb⟩
    · simp [fillFrom, List.take_of_length_le (show (stagedBytes st).length ≤ burst by omega)]
    · simp [fillFrom, show (stagedBytes st).length ≤ burst by omega]
    · simp [fillFrom, hc]
  | cons b rest ih =>
    unfold fillFrom
    split
    · next hlt =>
      have hp := stagedBytes_stagePush b (show st.count < st.buf.length by omega)
      have := ih (stagePush st b) hlt (by simp [hb]) (length_stagedBytes (by simp; omega))
      rw [hp] at this
      simp only [List.append_assoc, List.singleton_append, count_stagePush, List.length_cons] at this ⊢
      rw [show st.count + (rest.length + 1) = st.count + 1 + rest.length by omega]
      exact this
    · next hge =>
      have he : st.count = burst := by omega
      refine ⟨?_, ?_, ?_, hb⟩
      · rw [List.take_left' (hl.trans he)]
      · rw [List.drop_left' (hl.trans he)]
      · simp [he]

/-- The fill of a pass (42_burst_engine.md R163). -/
theorem fill_spec {s : State} (h : StagingOk s) :
    stagedBytes s.fill.staging = (available s).take s.cfg.burst ∧
      s.fill.ready = (available s).drop s.cfg.burst ∧
      s.fill.staging.count = min s.cfg.burst (available s).length ∧
      s.fill.staging.buf.length = s.cfg.burst := by
  have := fillFrom_spec s.cfg.burst s.ready s.staging h.1 h.2
  refine ⟨this.1, this.2.1, ?_, this.2.2.2⟩
  rw [available, List.length_append, length_stagedBytes (by omega)]
  exact this.2.2.1

theorem fill_stagingOk {s : State} (h : StagingOk s) : StagingOk s.fill :=
  ⟨by rw [(fill_spec h).2.2.1]; exact Nat.min_le_left _ _, (fill_spec h).2.2.2⟩

/-! ### The word writes of a burst -/

/-- The bytes of `left` words from word `w` on. -/
def wordsBytes (st : Staging) : (left : Nat) → (w : Nat) → List Byte
  | 0, _ => []
  | left + 1, w => stagedWord st w ++ wordsBytes st left (w + 1)

@[simp] theorem length_stagedWord (st : Staging) (w : Nat) : (stagedWord st w).length = wordBytes := rfl

theorem length_wordsBytes (st : Staging) (left w : Nat) :
    (wordsBytes st left w).length = wordBytes * left := by
  induction left generalizing w with
  | zero => rfl
  | succ left ih => simp [wordsBytes, ih, Nat.mul_succ, Nat.add_comm]

theorem wordsBytes_eq (st : Staging) (left w : Nat) (h : wordBytes * (w + left) ≤ st.buf.length) :
    wordsBytes st left w = (st.buf.drop (wordBytes * w)).take (wordBytes * left) := by
  induction left generalizing w with
  | zero => simp [wordsBytes]
  | succ left ih =>
    simp only [wordBytes] at *
    rw [wordsBytes, ih (w + 1) (by omega), show 4 * (left + 1) = 4 + 4 * left by omega, List.take_add,
      List.drop_drop, show 4 * w + 4 = 4 * (w + 1) by omega]
    congr 1
    apply List.ext_getElem
    · simp only [length_stagedWord, List.length_take, List.length_drop, wordBytes]
      omega
    · intro i hi hi'
      simp only [length_stagedWord, wordBytes] at hi
      simp only [List.getElem_take, List.getElem_drop]
      have : i = 0 ∨ i = 1 ∨ i = 2 ∨ i = 3 := by omega
      rcases this with rfl | rfl | rfl | rfl <;>
        simp [stagedWord, stagedByte, wordBytes, List.getD_eq_getElem?_getD,
          List.getElem?_eq_getElem (show 4 * w < st.buf.length by omega),
          List.getElem?_eq_getElem (show 4 * w + 1 < st.buf.length by omega),
          List.getElem?_eq_getElem (show 4 * w + 2 < st.buf.length by omega),
          List.getElem?_eq_getElem (show 4 * w + 3 < st.buf.length by omega)]

theorem base_step (base : Addr) (w : Nat) :
    base + BitVec.ofNat 32 (wordBytes * w) + BitVec.ofNat 32 wordBytes =
      base + BitVec.ofNat 32 (wordBytes * (w + 1)) := by
  rw [BitVec.add_assoc, ← BitVec.ofNat_add, Nat.mul_succ]

/-- With no fault among the answers, the word writes of a burst write its bytes and use up their
answers (42_burst_engine.md R164). -/
theorem writeWords_ok (base : Addr) (left w : Nat) (s : State)
    (h : ∀ x ∈ s.oracle.take left, x = BusAnswer.ok) :
    writeWords base left w s =
      .ok { s with
        mem := writeBytes s.mem (base + BitVec.ofNat 32 (wordBytes * w)) (wordsBytes s.staging left w)
        oracle := s.oracle.drop left } := by
  induction left generalizing w s with
  | zero => simp [writeWords, wordsBytes, writeBytes]
  | succ left ih =>
    have hh : s.oracle.head? ≠ some .fault := by
      cases ho : s.oracle with
      | nil => simp
      | cons x xs =>
        have := h x (by simp [ho])
        simp [this]
    rw [writeWords, memWrite_ok _ _ hh]
    simp only
    rw [ih]
    · simp only [wordsBytes, writeBytes_append, length_stagedWord, base_step, List.drop_tail]
    · intro x hx
      refine h x ?_
      cases ho : s.oracle with
      | nil => simp [ho] at hx
      | cons y ys =>
        simp only [ho, List.tail_cons] at hx
        simp [hx]

/-- A fault on word `w + j`: the `j` words before it stay written, and nothing else changes
(42_burst_engine.md R171). -/
theorem writeWords_fault (base : Addr) (left w j : Nat) (s : State) (rest : List BusAnswer)
    (hj : j < left) (h : s.oracle = List.replicate j .ok ++ .fault :: rest) :
    writeWords base left w s =
      .busFault (base + BitVec.ofNat 32 (wordBytes * (w + j)))
        { s with
          mem := writeBytes s.mem (base + BitVec.ofNat 32 (wordBytes * w)) (wordsBytes s.staging j w)
          oracle := rest } := by
  induction left generalizing w j s with
  | zero => omega
  | succ left ih =>
    cases j with
    | zero =>
      rw [writeWords, memWrite_fault _ _ (by simpa using h)]
      simp [wordsBytes, writeBytes]
    | succ j =>
      rw [writeWords, memWrite_ok _ _ (by simp [h, List.replicate_succ])]
      simp only
      rw [ih (w + 1) j _ (by omega) (by simp [h, List.replicate_succ])]
      simp only [wordsBytes, writeBytes_append, length_stagedWord, base_step]
      rw [show w + 1 + j = w + (j + 1) by omega]

/-- Whatever the answers are, the word writes change nothing but memory and the answers left. -/
theorem writeWords_invariant (P : State → Prop)
    (hw : ∀ u a bs o, P u → P { u with mem := writeBytes u.mem a bs, oracle := o })
    (ho : ∀ u o, P u → P { u with oracle := o }) (base : Addr) (left w : Nat) (s : State) (hs : P s) :
    (∀ t, writeWords base left w s = .ok t → P t) ∧
      ∀ a t, writeWords base left w s = .busFault a t → P t := by
  induction left generalizing w s with
  | zero =>
    refine ⟨fun t h => ?_, fun a t h => ?_⟩
    · simp only [writeWords, WriteResult.ok.injEq] at h
      exact h ▸ hs
    · simp [writeWords] at h
  | succ left ih =>
    unfold writeWords
    rcases memWrite_cases (base + BitVec.ofNat 32 (wordBytes * w)) (stagedWord s.staging w) s with
      h | ⟨-, h⟩
    · rw [h]
      exact ih _ _ (hw _ _ _ _ hs)
    · rw [h]
      refine ⟨fun t ht => (nomatch ht), fun a t ht => ?_⟩
      simp only [WriteResult.busFault.injEq] at ht
      exact ht.2 ▸ ho _ _ hs

/-! ### The pass -/

/-- A property kept by the fill, by memory writes, by the end of a burst, by the completion and by the
fault transition is kept by the loop of the pass. -/
theorem commitLoop_invariant (P : State → Prop) (hfill : ∀ u, P u → P u.fill)
    (hw : ∀ u a bs o, P u → P { u with mem := writeBytes u.mem a bs, oracle := o })
    (ho : ∀ u o, P u → P { u with oracle := o }) (hdone : ∀ u, P u → P (burstDone u))
    (hlim : ∀ u, P u → P (atLimit u)) (hfault : ∀ u, P u → P (faultTransition u))
    (n : Nat) (s : State) (hs : P s) (t : State) (h : commitLoop n s = .next t) : P t := by
  induction n generalizing s with
  | zero =>
    simp only [commitLoop, Host.Outcome.next.injEq] at h
    exact h ▸ hs
  | succ n ih =>
    have hf := hfill s hs
    have hww := writeWords_invariant P hw ho (s.fill.chan .storage).next
      (s.fill.cfg.burst / wordBytes) 0 s.fill hf
    unfold commitLoop commitTurn at h
    split at h
    · next u hu =>
      injection h with h
      subst h
      split at hu
      · split at hu
        · cases hu
        · split at hu
          · next a v hv =>
            injection hu with hu
            subst hu
            exact hfault _ (hww.2 _ _ hv)
          · next v hv =>
            simp only at hu
            split at hu
            · injection hu with hu
              subst hu
              exact hlim _ (hdone _ (hww.1 _ hv))
            · split at hu
              · injection hu with hu
                subst hu
                exact hdone _ (hww.1 _ hv)
              · cases hu
      · injection hu with hu
        subst hu
        exact hf
    · next u hu =>
      split at hu
      · split at hu
        · cases hu
        · split at hu
          · cases hu
          · next v hv =>
            simp only at hu
            split at hu
            · cases hu
            · split at hu
              · cases hu
              · injection hu with hu
                subst hu
                exact ih _ (hdone _ (hww.1 _ hv)) h
      · cases hu
    · cases h

/-- Everything a commit pass can answer: the guarded pass, or the loop and the hand-back; or a refusal
(42_burst_engine.md R161, R162, R172). -/
theorem commitPass_next {s t : State} (h : commitPass s = .next t) :
    (guarded s .storage = true ∧ t = (s.logMsg .commitWhileDisabled).devHandBack) ∨
      (guarded s .storage = false ∧
        ∃ u, commitLoop (s.ready.length + 2) s = .next u ∧ t = u.devHandBack) := by
  unfold commitPass at h
  split at h
  · next hg =>
    injection h with h
    exact .inl ⟨hg, h.symm⟩
  · next hg =>
    split at h
    · next u hu =>
      injection h with h
      exact .inr ⟨by simpa using hg, u, hu, h.symm⟩
    · next r _ => cases r
    · cases h

/-- A property kept by every part of the pass is kept by the pass. -/
theorem commitPass_invariant (P : State → Prop) (hnote : ∀ u c, P u → P (u.note c))
    (hfill : ∀ u, P u → P u.fill)
    (hw : ∀ u a bs o, P u → P { u with mem := writeBytes u.mem a bs, oracle := o })
    (ho : ∀ u o, P u → P { u with oracle := o }) (hdone : ∀ u, P u → P (burstDone u))
    (hlim : ∀ u, P u → P (atLimit u)) (hfault : ∀ u, P u → P (faultTransition u))
    {s t : State} (hs : P s) (h : commitPass s = .next t) : P t := by
  rcases commitPass_next h with ⟨-, rfl⟩ | ⟨-, u, hu, rfl⟩
  · exact hnote _ _ (hnote _ _ hs)
  · exact hnote _ _ (commitLoop_invariant P hfill hw ho hdone hlim hfault _ _ hs _ hu)

/-- Everything a flush can answer (42_burst_engine.md R173, R174). -/
theorem flush_next {s t : State} (h : flush s = .next t) :
    (guarded s .storage = true ∧ t = s.logMsg .flushWhileDisabled) ∨
      (guarded s .storage = false ∧
        (s.staging.count = 0 ∨ (s.chan .storage).next.ult (s.chan .storage).limit = false) ∧ t = s) ∨
      (guarded s .storage = false ∧ flushMisaligned (s.chan .storage) = false ∧
        ∃ u, memWrite (s.chan .storage).next (flushWord s)
            { s with draws := s.draws + flushPad s.staging } = .ok u ∧ t = flushDone u) ∨
      (guarded s .storage = false ∧ flushMisaligned (s.chan .storage) = false ∧
        ∃ a u, memWrite (s.chan .storage).next (flushWord s)
            { s with draws := s.draws + flushPad s.staging } = .busFault a u ∧ t = faultTransition u) := by
  unfold flush at h
  split at h
  · next hg =>
    injection h with h
    exact .inl ⟨hg, h.symm⟩
  · next hg =>
    have hg' : guarded s .storage = false := by simpa using hg
    split at h
    · next hc =>
      injection h with h
      exact .inr (.inl ⟨hg', by simpa using hc, h.symm⟩)
    · split at h
      · cases h
      · next hm =>
        have hm' : flushMisaligned (s.chan .storage) = false := by simpa using hm
        split at h
        · next a u hu =>
          injection h with h
          exact .inr (.inr (.inr ⟨hg', hm', a, u, hu, h.symm⟩))
        · next u hu =>
          injection h with h
          exact .inr (.inr (.inl ⟨hg', hm', u, hu, h.symm⟩))

end Sys2Proof.Machine
end

