-- ==== Sys2Proof/Laws/Decode.lean ====
section
/-! SUPPORT. The parts of a frame read back: words from their bytes, channels, registers and widths from
their codes. -/

namespace Sys2Proof

@[simp] theorem wordOf_byteOf (v : Word) :
    wordOf (byteOf v 0) (byteOf v 1) (byteOf v 2) (byteOf v 3) = v := by
  apply BitVec.eq_of_getLsbD_eq
  intro i hi
  simp only [wordOf, byteOf, BitVec.getLsbD_append, BitVec.getLsbD_extractLsb']
  by_cases h0 : i < 8
  · simp [h0]
  · by_cases h1 : i < 16
    · simp [h0, show i - 8 < 8 by omega, show 8 + (i - 8) = i by omega]
    · by_cases h2 : i < 24
      · simp [h0, show ¬i - 8 < 8 by omega, show i - 8 - 8 < 8 by omega,
          show 16 + (i - 8 - 8) = i by omega]
      · simp [h0, show ¬i - 8 < 8 by omega, show ¬i - 8 - 8 < 8 by omega,
          show i - 8 - 8 - 8 < 8 by omega, show 24 + (i - 8 - 8 - 8) = i by omega]

@[simp] theorem half_append (h : BitVec 16) : h.extractLsb' 8 8 ++ h.extractLsb' 0 8 = h := by
  apply BitVec.eq_of_getLsbD_eq
  intro i hi
  simp only [BitVec.getLsbD_append, BitVec.getLsbD_extractLsb']
  by_cases h0 : i < 8
  · simp [h0]
  · simp [h0, show i - 8 < 8 by omega, show 8 + (i - 8) = i by omega]

@[simp] theorem chanOfIndex_chanIndex (ch : Chan) : chanOfIndex (chanIndex ch) = some ch := by
  cases ch <;> decide

@[simp] theorem widthOfCode_widthCode (w : Width) : widthOfCode (widthCode w) = some w := by
  cases w <;> decide

@[simp] theorem regOfCode_accessCode (r : Reg) (b : Bool) : regOfCode (accessCode r b) = some r := by
  cases r <;> cases b <;> decide

@[simp] theorem isWrite_accessCode (r : Reg) (b : Bool) : isWrite (accessCode r b) = b := by
  cases r <;> cases b <;> decide

@[simp] theorem valueOf_bytesOfValue (v : BusValue) : valueOf v.width (bytesOfValue v) = some v := by
  cases v with
  | byte b => rfl
  | half h => simp [BusValue.width, bytesOfValue, bytesOfHalf, valueOf]
  | word w => simp [BusValue.width, bytesOfValue, bytesOf, valueOf]

/-- The frame of a register read decodes to that read. -/
theorem decodeAccess_readFrame (r : Reg) (off : Word) (w : Width) :
    decodeAccess (readFrame r off w).bytes = readInstr r off w := by
  simp [readFrame, bytesOf, decodeAccess]

/-- The frame of a register write decodes to that write. -/
theorem decodeAccess_writeFrame (r : Reg) (off : Word) (v : BusValue) :
    decodeAccess (writeFrame r off v).bytes = .ok (writeInstr r off v) := by
  simp [writeFrame, bytesOf, decodeAccess]

/-- The frame of a wide CSR value decodes to the row of the command it carries. -/
theorem decodeWide_wideFrame (cfg : Config) (ch : Chan) (v : Word) :
    decodeWide cfg (wideFrame ch v).bytes =
      .ok (wideInstr (Machine.csrCommand cfg (.wide v)) ch v) := by
  simp [wideFrame, bytesOf, decodeWide]

/-- The frame of a narrow CSR value decodes to the row of the command it carries. -/
theorem decodeNarrow_narrowFrame (cfg : Config) (ch : Chan) (b : Byte) :
    decodeNarrow cfg (narrowFrame ch b).bytes =
      .ok (narrowInstr (Machine.csrCommand cfg (.narrow b)) ch b) := by
  simp [narrowFrame, decodeNarrow]

/-! ### The codes of a frame determine it -/

@[simp] theorem bytesOf_wordOf (b0 b1 b2 b3 : Byte) : bytesOf (wordOf b0 b1 b2 b3) = [b0, b1, b2, b3] := by
  have cons {x y : Byte} {l m : List Byte} (hx : x = y) (hl : l = m) : x :: l = y :: m := by rw [hx, hl]
  refine cons ?_ (cons ?_ (cons ?_ (cons ?_ rfl))) <;> apply BitVec.eq_of_getLsbD_eq <;> intro i hi <;>
    simp only [byteOf, wordOf, BitVec.getLsbD_append, BitVec.getLsbD_extractLsb', hi]
  · simp [hi]
  · simp [show 8 + i - 8 = i by omega, hi]
  · simp [show ¬(16 + i < 8) by omega, show ¬(16 + i - 8 < 8) by omega, show 16 + i - 8 - 8 = i by omega, hi]
  · simp [show ¬(24 + i < 8) by omega, show ¬(24 + i - 8 < 8) by omega,
      show ¬(24 + i - 8 - 8 < 8) by omega, show 24 + i - 8 - 8 - 8 = i by omega, hi]

@[simp] theorem bytesOfHalf_append (b0 b1 : Byte) : bytesOfHalf (b1 ++ b0) = [b0, b1] := by
  have cons {x y : Byte} {l m : List Byte} (hx : x = y) (hl : l = m) : x :: l = y :: m := by rw [hx, hl]
  refine cons ?_ (cons ?_ rfl) <;> apply BitVec.eq_of_getLsbD_eq <;> intro i hi <;>
    simp only [BitVec.getLsbD_append, BitVec.getLsbD_extractLsb', hi]
  · simp [hi]
  · simp [show 8 + i - 8 = i by omega, hi]

theorem chanIndex_of_chanOfIndex {b : Byte} {ch : Chan} (h : chanOfIndex b = some ch) : chanIndex ch = b := by
  simpa using List.find?_some h

theorem accessCode_of_regOfCode : ∀ (c : Byte) (r : Reg), regOfCode c = some r → accessCode r (isWrite c) = c := by
  decide +kernel

theorem widthCode_of_widthOfCode {b : Byte} {w : Width} (h : widthOfCode b = some w) : widthCode w = b := by
  unfold widthOfCode at h
  split at h
  · next hb => cases h; exact hb.symm
  · split at h
    · next hb => cases h; exact hb.symm
    · split at h
      · next hb => cases h; exact hb.symm
      · cases h

theorem bytesOfValue_of_valueOf {w : Width} {bs : List Byte} {v : BusValue} (h : valueOf w bs = some v) :
    v.width = w ∧ bytesOfValue v = bs := by
  unfold valueOf at h
  split at h <;> cases h <;> simp [BusValue.width, bytesOfValue]

/-! ### Whole frames -/

theorem decode_readFrame (cfg : Config) (r : Reg) (off : Word) (w : Width) :
    decode cfg (readFrame r off w) = readInstr r off w := by
  rw [← decodeAccess_readFrame r off w]
  rfl

theorem decode_writeFrame (cfg : Config) (r : Reg) (off : Word) (v : BusValue) :
    decode cfg (writeFrame r off v) = .ok (writeInstr r off v) := by
  rw [← decodeAccess_writeFrame r off v]
  rfl

theorem decode_wideFrame (cfg : Config) (ch : Chan) (v : Word) :
    decode cfg (wideFrame ch v) = .ok (wideInstr (Machine.csrCommand cfg (.wide v)) ch v) := by
  rw [← decodeWide_wideFrame]
  rfl

theorem decode_narrowFrame (cfg : Config) (ch : Chan) (b : Byte) :
    decode cfg (narrowFrame ch b) = .ok (narrowInstr (Machine.csrCommand cfg (.narrow b)) ch b) := by
  rw [← decodeNarrow_narrowFrame]
  rfl

/-! ### The kinds of what the decoder builds -/

@[simp] theorem kindOf_wideInstr (c : Command) (ch : Chan) (v : Word) :
    Machine.kindOf (wideInstr c ch v) = .command c ch (.wide v) := by cases c <;> rfl

@[simp] theorem kindOf_narrowInstr (c : Command) (ch : Chan) (b : Byte) :
    Machine.kindOf (narrowInstr c ch b) = .command c ch (.narrow b) := by cases c <;> rfl

@[simp] theorem kindOf_writeInstr (r : Reg) (off : Word) (v : BusValue) :
    Machine.kindOf (writeInstr r off v) = .store r off v := by cases r <;> rfl

theorem kindOf_readInstr {r : Reg} {off : Word} {w : Width} {i : Instr} (h : readInstr r off w = .ok i) :
    Machine.kindOf i = .read r off w := by
  cases r <;> cases w <;> cases h <;> rfl

end Sys2Proof
end

