-- ==== Sys2Proof/Laws/PerInstr.lean ====
section
/-! SUPPORT. Facts about every instruction, one lemma per constructor: the frame and the meaning of an
instruction by its kind. -/

namespace Sys2Proof.Laws

open Sys2Proof.Machine

/-- The frame of an operation of a kind. -/
def frameOfKind : Kind → Frame
  | .read r off width => readFrame r off width
  | .store r off v => writeFrame r off v
  | .command _ ch (.wide v) => wideFrame ch v
  | .command _ ch (.narrow b) => narrowFrame ch b
  | .commit => ⟨.dev, [0]⟩
  | .flush => ⟨.dev, [1]⟩
  | .blockRead ch => ⟨.dev, [2, chanIndex ch]⟩
  | .blockWrite ch bytes => ⟨.dev, 3 :: chanIndex ch :: (bytesOf (BitVec.ofNat 32 bytes.length) ++ bytes)⟩
  | .reset => ⟨.sys, [0]⟩

/-- An instruction's frame is the frame of its kind. -/
def EncodesByKind.Statement (i : Instr) : Prop := encode i = frameOfKind (kindOf i)

theorem EncodesByKind.rdCsrWide (off : Word) : EncodesByKind.Statement (.rdCsrWide off) := rfl
theorem EncodesByKind.rdCsrNarrow (off : Word) : EncodesByKind.Statement (.rdCsrNarrow off) := rfl
theorem EncodesByKind.wrCsr (off : Word) (v : BusValue) : EncodesByKind.Statement (.wrCsr off v) := rfl
theorem EncodesByKind.rdSavedNext (off : Word) (width : Width) : EncodesByKind.Statement (.rdSavedNext off width) := rfl
theorem EncodesByKind.wrSavedNext (off : Word) (v : BusValue) : EncodesByKind.Statement (.wrSavedNext off v) := rfl
theorem EncodesByKind.rdSavedLimit (off : Word) (width : Width) : EncodesByKind.Statement (.rdSavedLimit off width) := rfl
theorem EncodesByKind.wrSavedLimit (off : Word) (v : BusValue) : EncodesByKind.Statement (.wrSavedLimit off v) := rfl
theorem EncodesByKind.rdSavedStart (off : Word) (width : Width) : EncodesByKind.Statement (.rdSavedStart off width) := rfl
theorem EncodesByKind.wrSavedStart (off : Word) (v : BusValue) : EncodesByKind.Statement (.wrSavedStart off v) := rfl
theorem EncodesByKind.rdSavedStop (off : Word) (width : Width) : EncodesByKind.Statement (.rdSavedStop off width) := rfl
theorem EncodesByKind.wrSavedStop (off : Word) (v : BusValue) : EncodesByKind.Statement (.wrSavedStop off v) := rfl
theorem EncodesByKind.rdNext (off : Word) (width : Width) : EncodesByKind.Statement (.rdNext off width) := rfl
theorem EncodesByKind.wrNext (off : Word) (v : BusValue) : EncodesByKind.Statement (.wrNext off v) := rfl
theorem EncodesByKind.rdLimit (off : Word) (width : Width) : EncodesByKind.Statement (.rdLimit off width) := rfl
theorem EncodesByKind.wrLimit (off : Word) (v : BusValue) : EncodesByKind.Statement (.wrLimit off v) := rfl
theorem EncodesByKind.rdStart (off : Word) (width : Width) : EncodesByKind.Statement (.rdStart off width) := rfl
theorem EncodesByKind.wrStart (off : Word) (v : BusValue) : EncodesByKind.Statement (.wrStart off v) := rfl
theorem EncodesByKind.rdStop (off : Word) (width : Width) : EncodesByKind.Statement (.rdStop off width) := rfl
theorem EncodesByKind.wrStop (off : Word) (v : BusValue) : EncodesByKind.Statement (.wrStop off v) := rfl
theorem EncodesByKind.rdInit (off : Word) (width : Width) : EncodesByKind.Statement (.rdInit off width) := rfl
theorem EncodesByKind.wrInit (off : Word) (v : BusValue) : EncodesByKind.Statement (.wrInit off v) := rfl
theorem EncodesByKind.rdSize (off : Word) (width : Width) : EncodesByKind.Statement (.rdSize off width) := rfl
theorem EncodesByKind.wrSize (off : Word) (v : BusValue) : EncodesByKind.Statement (.wrSize off v) := rfl
theorem EncodesByKind.cmdResetWide (ch : Chan) (v : Word) : EncodesByKind.Statement (.cmdResetWide ch v) := rfl
theorem EncodesByKind.cmdResetNarrow (ch : Chan) (b : Byte) : EncodesByKind.Statement (.cmdResetNarrow ch b) := rfl
theorem EncodesByKind.cmdInitbufWide (ch : Chan) (v : Word) : EncodesByKind.Statement (.cmdInitbufWide ch v) := rfl
theorem EncodesByKind.cmdInitbufNarrow (ch : Chan) (b : Byte) : EncodesByKind.Statement (.cmdInitbufNarrow ch b) := rfl
theorem EncodesByKind.cmdResetInitbufWide (ch : Chan) (v : Word) : EncodesByKind.Statement (.cmdResetInitbufWide ch v) := rfl
theorem EncodesByKind.cmdResetInitbufNarrow (ch : Chan) (b : Byte) : EncodesByKind.Statement (.cmdResetInitbufNarrow ch b) := rfl
theorem EncodesByKind.cmdClrcompleteWide (ch : Chan) (v : Word) : EncodesByKind.Statement (.cmdClrcompleteWide ch v) := rfl
theorem EncodesByKind.cmdClrcompleteNarrow (ch : Chan) (b : Byte) : EncodesByKind.Statement (.cmdClrcompleteNarrow ch b) := rfl
theorem EncodesByKind.cmdSetsupdateClrcompleteWide (ch : Chan) (v : Word) : EncodesByKind.Statement (.cmdSetsupdateClrcompleteWide ch v) := rfl
theorem EncodesByKind.cmdSetsupdateClrcompleteNarrow (ch : Chan) (b : Byte) : EncodesByKind.Statement (.cmdSetsupdateClrcompleteNarrow ch b) := rfl
theorem EncodesByKind.cmdSetenableWide (ch : Chan) (v : Word) : EncodesByKind.Statement (.cmdSetenableWide ch v) := rfl
theorem EncodesByKind.cmdSetenableNarrow (ch : Chan) (b : Byte) : EncodesByKind.Statement (.cmdSetenableNarrow ch b) := rfl
theorem EncodesByKind.cmdSetenableSetsupdateWide (ch : Chan) (v : Word) : EncodesByKind.Statement (.cmdSetenableSetsupdateWide ch v) := rfl
theorem EncodesByKind.cmdSetenableSetsupdateNarrow (ch : Chan) (b : Byte) : EncodesByKind.Statement (.cmdSetenableSetsupdateNarrow ch b) := rfl
theorem EncodesByKind.cmdNoneWide (ch : Chan) (v : Word) : EncodesByKind.Statement (.cmdNoneWide ch v) := rfl
theorem EncodesByKind.cmdNoneNarrow (ch : Chan) (b : Byte) : EncodesByKind.Statement (.cmdNoneNarrow ch b) := rfl
theorem EncodesByKind.cmdUnrec02Wide (ch : Chan) (v : Word) : EncodesByKind.Statement (.cmdUnrec02Wide ch v) := rfl
theorem EncodesByKind.cmdUnrec02Narrow (ch : Chan) (b : Byte) : EncodesByKind.Statement (.cmdUnrec02Narrow ch b) := rfl
theorem EncodesByKind.cmdUnrec09Wide (ch : Chan) (v : Word) : EncodesByKind.Statement (.cmdUnrec09Wide ch v) := rfl
theorem EncodesByKind.cmdUnrec09Narrow (ch : Chan) (b : Byte) : EncodesByKind.Statement (.cmdUnrec09Narrow ch b) := rfl
theorem EncodesByKind.cmdUnrec0BWide (ch : Chan) (v : Word) : EncodesByKind.Statement (.cmdUnrec0BWide ch v) := rfl
theorem EncodesByKind.cmdUnrec0BNarrow (ch : Chan) (b : Byte) : EncodesByKind.Statement (.cmdUnrec0BNarrow ch b) := rfl
theorem EncodesByKind.cmdUnrec11Wide (ch : Chan) (v : Word) : EncodesByKind.Statement (.cmdUnrec11Wide ch v) := rfl
theorem EncodesByKind.cmdUnrec11Narrow (ch : Chan) (b : Byte) : EncodesByKind.Statement (.cmdUnrec11Narrow ch b) := rfl
theorem EncodesByKind.cmdUnrec12Wide (ch : Chan) (v : Word) : EncodesByKind.Statement (.cmdUnrec12Wide ch v) := rfl
theorem EncodesByKind.cmdUnrec12Narrow (ch : Chan) (b : Byte) : EncodesByKind.Statement (.cmdUnrec12Narrow ch b) := rfl
theorem EncodesByKind.cmdUnrec13Wide (ch : Chan) (v : Word) : EncodesByKind.Statement (.cmdUnrec13Wide ch v) := rfl
theorem EncodesByKind.cmdUnrec13Narrow (ch : Chan) (b : Byte) : EncodesByKind.Statement (.cmdUnrec13Narrow ch b) := rfl
theorem EncodesByKind.cmdUnrec18Wide (ch : Chan) (v : Word) : EncodesByKind.Statement (.cmdUnrec18Wide ch v) := rfl
theorem EncodesByKind.cmdUnrec18Narrow (ch : Chan) (b : Byte) : EncodesByKind.Statement (.cmdUnrec18Narrow ch b) := rfl
theorem EncodesByKind.cmdUnrec19Wide (ch : Chan) (v : Word) : EncodesByKind.Statement (.cmdUnrec19Wide ch v) := rfl
theorem EncodesByKind.cmdUnrec19Narrow (ch : Chan) (b : Byte) : EncodesByKind.Statement (.cmdUnrec19Narrow ch b) := rfl
theorem EncodesByKind.cmdUnrec1AWide (ch : Chan) (v : Word) : EncodesByKind.Statement (.cmdUnrec1AWide ch v) := rfl
theorem EncodesByKind.cmdUnrec1ANarrow (ch : Chan) (b : Byte) : EncodesByKind.Statement (.cmdUnrec1ANarrow ch b) := rfl
theorem EncodesByKind.cmdUnrec1BWide (ch : Chan) (v : Word) : EncodesByKind.Statement (.cmdUnrec1BWide ch v) := rfl
theorem EncodesByKind.cmdUnrec1BNarrow (ch : Chan) (b : Byte) : EncodesByKind.Statement (.cmdUnrec1BNarrow ch b) := rfl
theorem EncodesByKind.cmdUnrec21Wide (ch : Chan) (v : Word) : EncodesByKind.Statement (.cmdUnrec21Wide ch v) := rfl
theorem EncodesByKind.cmdUnrec21Narrow (ch : Chan) (b : Byte) : EncodesByKind.Statement (.cmdUnrec21Narrow ch b) := rfl
theorem EncodesByKind.cmdUnrec22Wide (ch : Chan) (v : Word) : EncodesByKind.Statement (.cmdUnrec22Wide ch v) := rfl
theorem EncodesByKind.cmdUnrec22Narrow (ch : Chan) (b : Byte) : EncodesByKind.Statement (.cmdUnrec22Narrow ch b) := rfl
theorem EncodesByKind.cmdUnrec23Wide (ch : Chan) (v : Word) : EncodesByKind.Statement (.cmdUnrec23Wide ch v) := rfl
theorem EncodesByKind.cmdUnrec23Narrow (ch : Chan) (b : Byte) : EncodesByKind.Statement (.cmdUnrec23Narrow ch b) := rfl
theorem EncodesByKind.cmdUnrec28Wide (ch : Chan) (v : Word) : EncodesByKind.Statement (.cmdUnrec28Wide ch v) := rfl
theorem EncodesByKind.cmdUnrec28Narrow (ch : Chan) (b : Byte) : EncodesByKind.Statement (.cmdUnrec28Narrow ch b) := rfl
theorem EncodesByKind.cmdUnrec29Wide (ch : Chan) (v : Word) : EncodesByKind.Statement (.cmdUnrec29Wide ch v) := rfl
theorem EncodesByKind.cmdUnrec29Narrow (ch : Chan) (b : Byte) : EncodesByKind.Statement (.cmdUnrec29Narrow ch b) := rfl
theorem EncodesByKind.cmdUnrec2AWide (ch : Chan) (v : Word) : EncodesByKind.Statement (.cmdUnrec2AWide ch v) := rfl
theorem EncodesByKind.cmdUnrec2ANarrow (ch : Chan) (b : Byte) : EncodesByKind.Statement (.cmdUnrec2ANarrow ch b) := rfl
theorem EncodesByKind.cmdUnrec2BWide (ch : Chan) (v : Word) : EncodesByKind.Statement (.cmdUnrec2BWide ch v) := rfl
theorem EncodesByKind.cmdUnrec2BNarrow (ch : Chan) (b : Byte) : EncodesByKind.Statement (.cmdUnrec2BNarrow ch b) := rfl
theorem EncodesByKind.cmdUnrec31Wide (ch : Chan) (v : Word) : EncodesByKind.Statement (.cmdUnrec31Wide ch v) := rfl
theorem EncodesByKind.cmdUnrec31Narrow (ch : Chan) (b : Byte) : EncodesByKind.Statement (.cmdUnrec31Narrow ch b) := rfl
theorem EncodesByKind.cmdUnrec32Wide (ch : Chan) (v : Word) : EncodesByKind.Statement (.cmdUnrec32Wide ch v) := rfl
theorem EncodesByKind.cmdUnrec32Narrow (ch : Chan) (b : Byte) : EncodesByKind.Statement (.cmdUnrec32Narrow ch b) := rfl
theorem EncodesByKind.cmdUnrec33Wide (ch : Chan) (v : Word) : EncodesByKind.Statement (.cmdUnrec33Wide ch v) := rfl
theorem EncodesByKind.cmdUnrec33Narrow (ch : Chan) (b : Byte) : EncodesByKind.Statement (.cmdUnrec33Narrow ch b) := rfl
theorem EncodesByKind.cmdUnrec38Wide (ch : Chan) (v : Word) : EncodesByKind.Statement (.cmdUnrec38Wide ch v) := rfl
theorem EncodesByKind.cmdUnrec38Narrow (ch : Chan) (b : Byte) : EncodesByKind.Statement (.cmdUnrec38Narrow ch b) := rfl
theorem EncodesByKind.cmdUnrec39Wide (ch : Chan) (v : Word) : EncodesByKind.Statement (.cmdUnrec39Wide ch v) := rfl
theorem EncodesByKind.cmdUnrec39Narrow (ch : Chan) (b : Byte) : EncodesByKind.Statement (.cmdUnrec39Narrow ch b) := rfl
theorem EncodesByKind.cmdUnrec3AWide (ch : Chan) (v : Word) : EncodesByKind.Statement (.cmdUnrec3AWide ch v) := rfl
theorem EncodesByKind.cmdUnrec3ANarrow (ch : Chan) (b : Byte) : EncodesByKind.Statement (.cmdUnrec3ANarrow ch b) := rfl
theorem EncodesByKind.cmdUnrec3BWide (ch : Chan) (v : Word) : EncodesByKind.Statement (.cmdUnrec3BWide ch v) := rfl
theorem EncodesByKind.cmdUnrec3BNarrow (ch : Chan) (b : Byte) : EncodesByKind.Statement (.cmdUnrec3BNarrow ch b) := rfl
theorem EncodesByKind.devCommit : EncodesByKind.Statement (.devCommit) := rfl
theorem EncodesByKind.devFlush : EncodesByKind.Statement (.devFlush) := rfl
theorem EncodesByKind.devMRead (ch : Chan) : EncodesByKind.Statement (.devMRead ch) := rfl
theorem EncodesByKind.devMWrite (ch : Chan) (bytes : List Byte) : EncodesByKind.Statement (.devMWrite ch bytes) := rfl
theorem EncodesByKind.sysReset : EncodesByKind.Statement (.sysReset) := rfl

/-- What a register write does, `WR.CSR` included (40_register_access.md R103, 41_csr_commands.md
R130). -/
def execStore (r : Reg) (off : Word) (v : BusValue) (s : State) : Result :=
  match r with
  | .csr => execWrCsr off v s
  | .savedNext | .savedLimit | .savedStart | .savedStop
  | .next | .limit | .start | .stop | .init | .size => regWrite off v (fun w c => storeRegister w c r) s

/-- What an operation of a kind does. -/
def execKind (k : Kind) (s : State) : Result :=
  match k with
  | .read r off width => regRead (ownWidth s.cfg r) width off (fun c => registerReply s.cfg c r) s
  | .store r off v => execStore r off v s
  | .command c ch v => csrWrite ch v (commandEffect c ch) s
  | .commit => execDevCommit s
  | .flush => execDevFlush s
  | .blockRead ch => execDevMRead ch s
  | .blockWrite ch bytes => execDevMWrite ch bytes s
  | .reset => execSysReset s

theorem regRead_csr_wide (s : State) (off : Word) :
    execRdCsrWide off s =
      regRead (ownWidth s.cfg .csr) .word off (fun c => registerReply s.cfg c .csr) s := by
  unfold execRdCsrWide regRead ownWidth registerReply csrWidth
  cases s.cfg.gen <;> simp

theorem regRead_csr_narrow (s : State) (off : Word) :
    execRdCsrNarrow off s =
      regRead (ownWidth s.cfg .csr) .byte off (fun c => registerReply s.cfg c .csr) s := by
  unfold execRdCsrNarrow regRead ownWidth registerReply csrWidth
  cases s.cfg.gen <;> simp

/-- The meaning of an instruction is the meaning of its kind: 92 constructors, 8 cases. -/
theorem exec_eq_execKind (i : Instr) (s : State) : exec i s = execKind (kindOf i) s := by
  cases i with
  | rdCsrWide off => exact regRead_csr_wide s off
  | rdCsrNarrow off => exact regRead_csr_narrow s off
  | _ => rfl

end Sys2Proof.Laws
end

