-- ==== Sys2Proof/Laws/Ops.lean ====
section
/-! SUPPORT. What each shared operation over the block does, said once: its fields after it, and everything
it can answer. -/

namespace Sys2Proof.Machine

/-! ### The parts of the engine, field by field -/

@[simp] theorem cfg_faultTransition (s : State) : (faultTransition s).cfg = s.cfg := by unfold faultTransition; simp only; split <;> simp
@[simp] theorem staging_faultTransition (s : State) : (faultTransition s).staging = s.staging := by unfold faultTransition; simp only; split <;> simp
@[simp] theorem mem_faultTransition (s : State) : (faultTransition s).mem = s.mem := by unfold faultTransition; simp only; split <;> simp
@[simp] theorem ready_faultTransition (s : State) : (faultTransition s).ready = s.ready := by unfold faultTransition; simp only; split <;> simp
@[simp] theorem oracle_faultTransition (s : State) : (faultTransition s).oracle = s.oracle := by unfold faultTransition; simp only; split <;> simp
@[simp] theorem draws_faultTransition (s : State) : (faultTransition s).draws = s.draws := by unfold faultTransition; simp only; split <;> simp
@[simp] theorem reply_faultTransition (s : State) : (faultTransition s).reply = s.reply := by unfold faultTransition; simp only; split <;> simp
@[simp] theorem pending_faultTransition (s : State) : (faultTransition s).pending = s.pending := by unfold faultTransition; simp only; split <;> simp

@[simp] theorem cfg_atLimit (s : State) : (atLimit s).cfg = s.cfg := by simp [atLimit]
@[simp] theorem staging_atLimit (s : State) : (atLimit s).staging = s.staging := by simp [atLimit]
@[simp] theorem mem_atLimit (s : State) : (atLimit s).mem = s.mem := by simp [atLimit]
@[simp] theorem ready_atLimit (s : State) : (atLimit s).ready = s.ready := by simp [atLimit]
@[simp] theorem oracle_atLimit (s : State) : (atLimit s).oracle = s.oracle := by simp [atLimit]
@[simp] theorem draws_atLimit (s : State) : (atLimit s).draws = s.draws := by simp [atLimit]
@[simp] theorem reply_atLimit (s : State) : (atLimit s).reply = s.reply := by simp [atLimit]
@[simp] theorem pending_atLimit (s : State) : (atLimit s).pending = s.pending := by simp [atLimit]

@[simp] theorem cfg_burstDone (s : State) : (burstDone s).cfg = s.cfg := by simp [burstDone]
@[simp] theorem mem_burstDone (s : State) : (burstDone s).mem = s.mem := by simp [burstDone]
@[simp] theorem ready_burstDone (s : State) : (burstDone s).ready = s.ready := by simp [burstDone]
@[simp] theorem oracle_burstDone (s : State) : (burstDone s).oracle = s.oracle := by simp [burstDone]
@[simp] theorem draws_burstDone (s : State) : (burstDone s).draws = s.draws := by simp [burstDone]
@[simp] theorem reply_burstDone (s : State) : (burstDone s).reply = s.reply := by simp [burstDone]
@[simp] theorem pending_burstDone (s : State) : (burstDone s).pending = s.pending := by simp [burstDone]

@[simp] theorem cfg_flushDone (s : State) : (flushDone s).cfg = s.cfg := by simp [flushDone]
@[simp] theorem mem_flushDone (s : State) : (flushDone s).mem = s.mem := by simp [flushDone]
@[simp] theorem ready_flushDone (s : State) : (flushDone s).ready = s.ready := by simp [flushDone]
@[simp] theorem oracle_flushDone (s : State) : (flushDone s).oracle = s.oracle := by simp [flushDone]
@[simp] theorem draws_flushDone (s : State) : (flushDone s).draws = s.draws := by simp [flushDone]
@[simp] theorem reply_flushDone (s : State) : (flushDone s).reply = s.reply := by simp [flushDone]
@[simp] theorem pending_flushDone (s : State) : (flushDone s).pending = s.pending := by simp [flushDone]

@[simp] theorem cfg_storeDir (s : State) (ch : Chan) (w : Word) : (storeDir ch w s).cfg = s.cfg := by unfold storeDir; split <;> simp
@[simp] theorem staging_storeDir (s : State) (ch : Chan) (w : Word) : (storeDir ch w s).staging = s.staging := by unfold storeDir; split <;> simp
@[simp] theorem mem_storeDir (s : State) (ch : Chan) (w : Word) : (storeDir ch w s).mem = s.mem := by unfold storeDir; split <;> simp
@[simp] theorem ready_storeDir (s : State) (ch : Chan) (w : Word) : (storeDir ch w s).ready = s.ready := by unfold storeDir; split <;> simp
@[simp] theorem oracle_storeDir (s : State) (ch : Chan) (w : Word) : (storeDir ch w s).oracle = s.oracle := by unfold storeDir; split <;> simp
@[simp] theorem draws_storeDir (s : State) (ch : Chan) (w : Word) : (storeDir ch w s).draws = s.draws := by unfold storeDir; split <;> simp
@[simp] theorem reply_storeDir (s : State) (ch : Chan) (w : Word) : (storeDir ch w s).reply = s.reply := by unfold storeDir; split <;> simp
@[simp] theorem pending_storeDir (s : State) (ch : Chan) (w : Word) : (storeDir ch w s).pending = s.pending := by unfold storeDir; split <;> simp

@[simp] theorem cfg_doReset (s : State) (ch : Chan) : (doReset ch s).cfg = s.cfg := by simp [doReset]
@[simp] theorem staging_doReset (s : State) (ch : Chan) : (doReset ch s).staging = s.staging := by simp [doReset]
@[simp] theorem mem_doReset (s : State) (ch : Chan) : (doReset ch s).mem = s.mem := by simp [doReset]
@[simp] theorem ready_doReset (s : State) (ch : Chan) : (doReset ch s).ready = s.ready := by simp [doReset]
@[simp] theorem oracle_doReset (s : State) (ch : Chan) : (doReset ch s).oracle = s.oracle := by simp [doReset]
@[simp] theorem draws_doReset (s : State) (ch : Chan) : (doReset ch s).draws = s.draws := by simp [doReset]
@[simp] theorem reply_doReset (s : State) (ch : Chan) : (doReset ch s).reply = s.reply := by simp [doReset]
@[simp] theorem pending_doReset (s : State) (ch : Chan) : (doReset ch s).pending = s.pending := by simp [doReset]

@[simp] theorem cfg_doInitBuf (s : State) (ch : Chan) : (doInitBuf ch s).cfg = s.cfg := by unfold doInitBuf; split <;> simp
@[simp] theorem mem_doInitBuf (s : State) (ch : Chan) : (doInitBuf ch s).mem = s.mem := by unfold doInitBuf; split <;> simp
@[simp] theorem ready_doInitBuf (s : State) (ch : Chan) : (doInitBuf ch s).ready = s.ready := by unfold doInitBuf; split <;> simp
@[simp] theorem oracle_doInitBuf (s : State) (ch : Chan) : (doInitBuf ch s).oracle = s.oracle := by unfold doInitBuf; split <;> simp
@[simp] theorem draws_doInitBuf (s : State) (ch : Chan) : (doInitBuf ch s).draws = s.draws := by unfold doInitBuf; split <;> simp
@[simp] theorem reply_doInitBuf (s : State) (ch : Chan) : (doInitBuf ch s).reply = s.reply := by unfold doInitBuf; split <;> simp
@[simp] theorem pending_doInitBuf (s : State) (ch : Chan) : (doInitBuf ch s).pending = s.pending := by unfold doInitBuf; split <;> simp

@[simp] theorem cfg_alignmentLog (s : State) (ch : Chan) (a : Addr) : (alignmentLog ch a s).cfg = s.cfg := by unfold alignmentLog; split <;> simp
@[simp] theorem staging_alignmentLog (s : State) (ch : Chan) (a : Addr) : (alignmentLog ch a s).staging = s.staging := by unfold alignmentLog; split <;> simp
@[simp] theorem mem_alignmentLog (s : State) (ch : Chan) (a : Addr) : (alignmentLog ch a s).mem = s.mem := by unfold alignmentLog; split <;> simp
@[simp] theorem ready_alignmentLog (s : State) (ch : Chan) (a : Addr) : (alignmentLog ch a s).ready = s.ready := by unfold alignmentLog; split <;> simp
@[simp] theorem oracle_alignmentLog (s : State) (ch : Chan) (a : Addr) : (alignmentLog ch a s).oracle = s.oracle := by unfold alignmentLog; split <;> simp
@[simp] theorem draws_alignmentLog (s : State) (ch : Chan) (a : Addr) : (alignmentLog ch a s).draws = s.draws := by unfold alignmentLog; split <;> simp
@[simp] theorem reply_alignmentLog (s : State) (ch : Chan) (a : Addr) : (alignmentLog ch a s).reply = s.reply := by unfold alignmentLog; split <;> simp
@[simp] theorem pending_alignmentLog (s : State) (ch : Chan) (a : Addr) : (alignmentLog ch a s).pending = s.pending := by unfold alignmentLog; split <;> simp

@[simp] theorem cfg_readDone (s : State) (ch : Chan) : (readDone ch s).cfg = s.cfg := by simp [readDone]
@[simp] theorem staging_readDone (s : State) (ch : Chan) : (readDone ch s).staging = s.staging := by simp [readDone]
@[simp] theorem mem_readDone (s : State) (ch : Chan) : (readDone ch s).mem = s.mem := by simp [readDone]
@[simp] theorem ready_readDone (s : State) (ch : Chan) : (readDone ch s).ready = s.ready := by simp [readDone]
@[simp] theorem oracle_readDone (s : State) (ch : Chan) : (readDone ch s).oracle = s.oracle := by simp [readDone]
@[simp] theorem draws_readDone (s : State) (ch : Chan) : (readDone ch s).draws = s.draws := by simp [readDone]
@[simp] theorem reply_readDone (s : State) (ch : Chan) : (readDone ch s).reply = s.reply := by simp [readDone]
@[simp] theorem pending_readDone (s : State) (ch : Chan) : (readDone ch s).pending = s.pending := by simp [readDone]

@[simp] theorem cfg_writeDone (s : State) (ch : Chan) (n : Word) : (writeDone ch n s).cfg = s.cfg := by simp [writeDone]
@[simp] theorem staging_writeDone (s : State) (ch : Chan) (n : Word) : (writeDone ch n s).staging = s.staging := by simp [writeDone]
@[simp] theorem mem_writeDone (s : State) (ch : Chan) (n : Word) : (writeDone ch n s).mem = s.mem := by simp [writeDone]
@[simp] theorem ready_writeDone (s : State) (ch : Chan) (n : Word) : (writeDone ch n s).ready = s.ready := by simp [writeDone]
@[simp] theorem oracle_writeDone (s : State) (ch : Chan) (n : Word) : (writeDone ch n s).oracle = s.oracle := by simp [writeDone]
@[simp] theorem draws_writeDone (s : State) (ch : Chan) (n : Word) : (writeDone ch n s).draws = s.draws := by simp [writeDone]
@[simp] theorem reply_writeDone (s : State) (ch : Chan) (n : Word) : (writeDone ch n s).reply = s.reply := by simp [writeDone]
@[simp] theorem pending_writeDone (s : State) (ch : Chan) (n : Word) : (writeDone ch n s).pending = s.pending := by simp [writeDone]

@[simp] theorem chan_setStaging (s : State) (st : Staging) (ch : Chan) :
    ({ s with staging := st } : State).chan ch = s.chan ch := rfl
@[simp] theorem level_setStaging (s : State) (st : Staging) (l : IrqLine) :
    ({ s with staging := st } : State).level l = s.level l := rfl
@[simp] theorem chan_setMem (s : State) (m : Memory) (o : List BusAnswer) (ch : Chan) :
    ({ s with mem := m, oracle := o } : State).chan ch = s.chan ch := rfl
@[simp] theorem level_setMem (s : State) (m : Memory) (o : List BusAnswer) (l : IrqLine) :
    ({ s with mem := m, oracle := o } : State).level l = s.level l := rfl
@[simp] theorem chan_setOracle (s : State) (o : List BusAnswer) (ch : Chan) :
    ({ s with oracle := o } : State).chan ch = s.chan ch := rfl
@[simp] theorem level_setOracle (s : State) (o : List BusAnswer) (l : IrqLine) :
    ({ s with oracle := o } : State).level l = s.level l := rfl
@[simp] theorem chan_setDraws (s : State) (n : Nat) (ch : Chan) :
    ({ s with draws := n } : State).chan ch = s.chan ch := rfl
@[simp] theorem level_setDraws (s : State) (n : Nat) (l : IrqLine) :
    ({ s with draws := n } : State).level l = s.level l := rfl

@[simp] theorem chan_faultTransition_same (s : State) :
    (faultTransition s).chan .storage = { s.chan .storage with enable := false, complete := true, busexc := true } := by
  unfold faultTransition
  simp only
  split <;> simp

@[simp] theorem chan_faultTransition_ne (s : State) {k : Chan} (h : k ≠ .storage) :
    (faultTransition s).chan k = s.chan k := by
  unfold faultTransition
  simp only
  split <;> simp [h]

@[simp] theorem chan_atLimit_same (s : State) :
    (atLimit s).chan .storage = (if (s.chan .storage).supdate then
        { s.chan .storage with
          complete := true, next := (s.chan .storage).start, limit := (s.chan .storage).stop
          supdate := false }
      else { s.chan .storage with complete := true, enable := false }) := by
  simp [atLimit]

@[simp] theorem chan_atLimit_ne (s : State) {k : Chan} (h : k ≠ .storage) :
    (atLimit s).chan k = s.chan k := by
  simp [atLimit, h]

@[simp] theorem chan_burstDone_same (s : State) :
    (burstDone s).chan .storage = { s.chan .storage with next := (s.chan .storage).next + burstWord s.cfg } := State.chan_modChan_same s .storage (fun c => { c with next := c.next + burstWord s.cfg })

@[simp] theorem chan_burstDone_ne (s : State) {k : Chan} (h : k ≠ .storage) :
    (burstDone s).chan k = s.chan k := State.chan_modChan_ne s (fun c => { c with next := c.next + burstWord s.cfg }) h

@[simp] theorem chan_flushDone_same (s : State) :
    (flushDone s).chan .storage = { s.chan .storage with next := (s.chan .storage).next + BitVec.ofNat 32 wordBytes } := State.chan_modChan_same s .storage (fun c => { c with next := c.next + BitVec.ofNat 32 wordBytes })

@[simp] theorem chan_flushDone_ne (s : State) {k : Chan} (h : k ≠ .storage) :
    (flushDone s).chan k = s.chan k := State.chan_modChan_ne s (fun c => { c with next := c.next + BitVec.ofNat 32 wordBytes }) h

@[simp] theorem chan_storeDir_same (s : State) (ch : Chan) (w : Word) :
    (storeDir ch w s).chan ch = (if dirBit s.cfg.layout w then { s.chan ch with dir := .d2m } else s.chan ch) := by
  unfold storeDir
  split <;> simp

@[simp] theorem chan_storeDir_ne (s : State) (ch : Chan) (w : Word) {k : Chan} (h : k ≠ ch) :
    (storeDir ch w s).chan k = s.chan k := by
  unfold storeDir
  split <;> simp [h]

@[simp] theorem chan_doReset_same (s : State) (ch : Chan) :
    (doReset ch s).chan ch = resetFields (s.chan ch) := by
  simp [doReset]

@[simp] theorem chan_doReset_ne (s : State) (ch : Chan) {k : Chan} (h : k ≠ ch) :
    (doReset ch s).chan k = s.chan k := by
  simp [doReset, h]

@[simp] theorem chan_doInitBuf (s : State) (ch k : Chan) : (doInitBuf ch s).chan k = s.chan k := by
  unfold doInitBuf
  split <;> simp

@[simp] theorem chan_alignmentLog (s : State) (ch : Chan) (a : Addr) (k : Chan) :
    (alignmentLog ch a s).chan k = s.chan k := by
  unfold alignmentLog
  split <;> simp

@[simp] theorem chan_readDone_same (s : State) (ch : Chan) :
    (readDone ch s).chan ch = { s.chan ch with complete := true, supdate := true } := by
  simp [readDone]

@[simp] theorem chan_readDone_ne (s : State) (ch : Chan) {k : Chan} (h : k ≠ ch) :
    (readDone ch s).chan k = s.chan k := by
  simp [readDone, h]

@[simp] theorem chan_writeDone_same (s : State) (ch : Chan) (n : Word) :
    (writeDone ch n s).chan ch = writeDoneFields ch (s.chan ch).next n (s.chan ch) := by
  simp [writeDone]

@[simp] theorem chan_writeDone_ne (s : State) (ch : Chan) (n : Word) {k : Chan} (h : k ≠ ch) :
    (writeDone ch n s).chan k = s.chan k := by
  simp [writeDone, h]

/-! ### The lines after each part -/

theorem level_faultTransition (s : State) (l : IrqLine) :
    (faultTransition s).level l =
      if s.cfg.faultIrq = true ∧ s.cfg.irq.get .storage = some l then true else s.level l := by
  unfold faultTransition
  simp only
  split
  · next h =>
    rw [State.level_irqSet]
    simp only [State.cfg_modChan, State.level_modChan] at h ⊢
    by_cases hl : s.cfg.irq.get .storage = some l <;> simp [h, hl]
  · next h =>
    simp only [State.cfg_modChan] at h
    simp [h]

theorem level_atLimit (s : State) (l : IrqLine) :
    (atLimit s).level l = if s.cfg.irq.get .storage = some l then true else s.level l := by
  unfold atLimit
  rw [State.level_modChan, State.level_irqSet]
  rfl

theorem level_readDone (s : State) (ch : Chan) (l : IrqLine) :
    (readDone ch s).level l = if s.cfg.irq.get ch = some l then true else s.level l := by
  unfold readDone
  rw [State.level_irqSet]
  rfl

theorem level_writeDone (s : State) (ch : Chan) (n : Word) (l : IrqLine) :
    (writeDone ch n s).level l = if s.cfg.irq.get ch = some l then true else s.level l := by
  unfold writeDone
  rw [State.level_irqSet]
  rfl

@[simp] theorem level_burstDone (s : State) (l : IrqLine) : (burstDone s).level l = s.level l := rfl
@[simp] theorem level_flushDone (s : State) (l : IrqLine) : (flushDone s).level l = s.level l := rfl
@[simp] theorem level_doReset (s : State) (ch : Chan) (l : IrqLine) : (doReset ch s).level l = s.level l := rfl
@[simp] theorem level_storeDir (s : State) (ch : Chan) (w : Word) (l : IrqLine) : (storeDir ch w s).level l = s.level l := by
  unfold storeDir; split <;> rfl
@[simp] theorem level_doInitBuf (s : State) (ch : Chan) (l : IrqLine) : (doInitBuf ch s).level l = s.level l := by
  unfold doInitBuf; split <;> rfl
@[simp] theorem level_alignmentLog (s : State) (ch : Chan) (a : Addr) (l : IrqLine) : (alignmentLog ch a s).level l = s.level l := by
  unfold alignmentLog; split <;> rfl

/-! ### Everything a shared operation can answer -/

/-- A register read that answers a next state was made at the register's own width; it returns the
register, or 0 for an unknown offset, and changes nothing else (40_register_access.md R102, R103, R126). -/
theorem regRead_next {own width : Width} {off : Word} {read : Channel → Reply} {s t : State}
    (h : regRead own width off read s = .next t) :
    width = own ∧
      ((decodeChan s.cfg off = none ∧ t = (s.logMsg (.unknownChannel off)).answer (zeroReply own)) ∨
        ∃ ch, decodeChan s.cfg off = some ch ∧ t = s.answer (read (s.chan ch))) := by
  unfold regRead at h
  split at h
  · next hw =>
    refine ⟨hw, ?_⟩
    split at h <;> injection h with h
    · next hd => exact .inl ⟨hd, h.symm⟩
    · next ch hd => exact .inr ⟨ch, hd, h.symm⟩
  · cases h

/-- A plain register write that answers a next state stores into the decoded channel, or is discarded
(40_register_access.md R102, R103). -/
theorem regWrite_next {off : Word} {v : BusValue} {store : Word → Channel → Channel} {s t : State}
    (h : regWrite off v store s = .next t) :
    ∃ w, v = .word w ∧
      ((decodeChan s.cfg off = none ∧ t = (s.logMsg (.unknownChannel off)).answer .none) ∨
        ∃ ch, decodeChan s.cfg off = some ch ∧ t = (s.modChan ch (store w)).answer .none) := by
  unfold regWrite at h
  split at h
  · next w =>
    refine ⟨w, rfl, ?_⟩
    split at h <;> injection h with h
    · next hd => exact .inl ⟨hd, h.symm⟩
    · next ch hd => exact .inr ⟨ch, hd, h.symm⟩
  · cases h
  · cases h

/-- A CSR write that answers a next state has the CSR's width, runs its command after the direction store,
and ends with the release of the line (41_csr_commands.md R130, R142, R143). -/
theorem csrWrite_next {ch : Chan} {v : CsrValue} {effect : State → Result} {s t : State}
    (h : csrWrite ch v effect s = .next t) :
    csrValueWidth v = csrWidth s.cfg.gen ∧
      ∃ u, effect (storeDir ch (csrWriteValue s.cfg v) (s.answer .none)) = .next u ∧
        t = u.irqRelease ch := by
  unfold csrWrite at h
  split at h
  · next hw =>
    refine ⟨hw, ?_⟩
    split at h
    · next u hu =>
      injection h with h
      exact ⟨u, hu, h.symm⟩
    · next r _ => cases r
    · cases h
  · cases h

/-- `WR.CSR` that answers a next state is a discarded write or the CSR write of the command its value
carries (41_csr_commands.md R130, R144). -/
theorem execWrCsr_next {off : Word} {v : BusValue} {s t : State} (h : execWrCsr off v s = .next t) :
    ∃ cv, csrValueOf v = some cv ∧ csrValueWidth cv = csrWidth s.cfg.gen ∧
      ((decodeChan s.cfg off = none ∧ t = (s.logMsg (.unknownChannel off)).answer .none) ∨
        ∃ ch, decodeChan s.cfg off = some ch ∧
          csrWrite ch cv (commandEffect (csrCommand s.cfg cv) ch) s = .next t) := by
  unfold execWrCsr at h
  split at h
  · cases h
  · next cv hv =>
    split at h
    · next hw =>
      refine ⟨cv, hv, hw, ?_⟩
      split at h
      · next hd =>
        injection h with h
        exact .inl ⟨hd, h.symm⟩
      · next ch hd => exact .inr ⟨ch, hd, h⟩
    · cases h

/-- The effect of a command: one of six state changes, or a state change and then, on `storage`, a commit
pass (41_csr_commands.md R133 to R141). -/
theorem commandEffect_cases (c : Command) (ch : Chan) (s : State) :
    (c = .reset ∧ commandEffect c ch s = .next (doReset ch s)) ∨
    (c = .initbuf ∧ commandEffect c ch s = .next (doInitBuf ch s)) ∨
    (c = .resetInitbuf ∧ commandEffect c ch s = .next (doInitBuf ch (doReset ch s))) ∨
    (c = .clrcomplete ∧ commandEffect c ch s =
      passOnStorage ch (s.modChan ch fun k => { k with complete := false })) ∨
    (c = .setsupdateClrcomplete ∧ commandEffect c ch s =
      passOnStorage ch (s.modChan ch fun k => { k with supdate := true, complete := false })) ∨
    (c = .setenable ∧ commandEffect c ch s = .next (s.modChan ch fun k => { k with enable := true })) ∨
    (c = .setenableSetsupdate ∧ commandEffect c ch s =
      .next (s.modChan ch fun k => { k with enable := true, supdate := true })) ∨
    (c = .noCommand ∧ commandEffect c ch s = .next (s.logMsg .noCommand)) ∨
    ((c ≠ .reset ∧ c ≠ .initbuf ∧ c ≠ .resetInitbuf ∧ c ≠ .clrcomplete ∧ c ≠ .setsupdateClrcomplete ∧
      c ≠ .setenable ∧ c ≠ .setenableSetsupdate ∧ c ≠ .noCommand) ∧
      commandEffect c ch s = .next (s.logMsg (.badCommand c))) := by
  cases c <;> simp [commandEffect, cmdReset, cmdInitbuf, cmdResetInitbuf, cmdClrcomplete,
    cmdSetsupdateClrcomplete, cmdSetenable, cmdSetenableSetsupdate, cmdNone, cmdUnrecognized]

/-- A memory read transfer that answers a next state was turned away by the guard, or read its block
(43_block_transfer.md R190 to R193). -/
theorem memReadXfer_next {ch : Chan} {s t : State} (h : memReadXfer ch s = .next t) :
    ch ≠ .storage ∧
      ((guarded s ch = true ∧ t = (s.logMsg (.transferWhileDisabled ch)).answer (.block 0 [])) ∨
        (guarded s ch = false ∧ (s.chan ch).limit.ult (sizePointer s.cfg ch (s.chan ch)) = false ∧
          t = (readDone ch (alignmentLog ch (baseOf (s.chan ch)) s)).answer
            (.block ((s.chan ch).limit - sizePointer s.cfg ch (s.chan ch))
              (readBytes s.mem (baseOf (s.chan ch))
                ((s.chan ch).limit - sizePointer s.cfg ch (s.chan ch)).toNat)))) := by
  unfold memReadXfer at h
  split at h
  · cases h
  · next hs =>
    refine ⟨hs, ?_⟩
    split at h
    · next hg =>
      injection h with h
      exact .inl ⟨hg, h.symm⟩
    · next hg =>
      simp only at h
      split at h
      · cases h
      · next hl =>
        injection h with h
        exact .inr ⟨by simpa using hg, by simpa using hl, h.symm⟩

/-- A memory write transfer that answers a next state was turned away by the guard, or wrote all its bytes
(43_block_transfer.md R190, R194 to R201). -/
theorem memWriteXfer_next {ch : Chan} {bytes : List Byte} {s t : State}
    (h : memWriteXfer ch bytes s = .next t) :
    ch ≠ .storage ∧
      ((guarded s ch = true ∧ t = s.logMsg (.transferWhileDisabled ch)) ∨
        (guarded s ch = false ∧ ∃ u,
          blockWrites (s.chan ch) bytes (alignmentLog ch (baseOf (s.chan ch)) s) = some (.ok u) ∧
            t = writeDone ch (BitVec.ofNat 32 bytes.length) u)) := by
  unfold memWriteXfer at h
  split at h
  · cases h
  · next hs =>
    refine ⟨hs, ?_⟩
    split at h
    · next hg =>
      injection h with h
      exact .inl ⟨hg, h.symm⟩
    · next hg =>
      simp only at h
      split at h
      · cases h
      · cases h
      · next u hu =>
        injection h with h
        exact .inr ⟨by simpa using hg, u, hu, h.symm⟩

/-- A `MemWrite` that succeeds leaves a state that differs in memory and in the answers left. -/
theorem memWrite_ok_inv {a : Addr} {bs : List Byte} {s u : State} (h : memWrite a bs s = .ok u) :
    u = { s with mem := writeBytes s.mem a bs, oracle := s.oracle.tail } := by
  rcases memWrite_cases a bs s with h' | ⟨-, h'⟩ <;> rw [h'] at h
  · injection h with h
    exact h.symm
  · cases h

/-- The memory writes of a generic memory write, when they succeed: in one piece at `init` or at `next`, or
split at `limit` (43_block_transfer.md R194, R195). -/
theorem blockWrites_ok {c : Channel} {bytes : List Byte} {s u : State}
    (h : blockWrites c bytes s = some (.ok u)) :
    (c.init = 0 ∧
      u = { s with mem := writeBytes s.mem c.next bytes, oracle := s.oracle.tail }) ∨
    (c.init ≠ 0 ∧ c.limit.ult c.init = false ∧ bytes.length ≤ (c.limit - c.init).toNat ∧
      u = { s with mem := writeBytes s.mem c.init bytes, oracle := s.oracle.tail }) ∨
    (c.init ≠ 0 ∧ c.limit.ult c.init = false ∧ (c.limit - c.init).toNat < bytes.length ∧
      u = { s with
        mem := writeBytes (writeBytes s.mem c.init (bytes.take (c.limit - c.init).toNat)) c.start
          (bytes.drop (c.limit - c.init).toNat)
        oracle := s.oracle.tail.tail }) := by
  unfold blockWrites at h
  split at h
  · next hi =>
    split at h
    · cases h
    · next hl =>
      have hl' : c.limit.ult c.init = false := by simpa using hl
      simp only at h
      split at h
      · next hr =>
        split at h
        · cases h
        · next v hv =>
          injection h with h
          have hv := memWrite_ok_inv hv
          have h := memWrite_ok_inv h
          subst hv
          exact .inr (.inr ⟨hi, hl', hr, h⟩)
      · next hr =>
        injection h with h
        exact .inr (.inl ⟨hi, hl', by omega, memWrite_ok_inv h⟩)
  · next hi =>
    injection h with h
    exact .inl ⟨by simpa using hi, memWrite_ok_inv h⟩

end Sys2Proof.Machine
end

