-- ==== Sys2Proof/Laws/Operations.lean ====
section
/-! SUPPORT. What a CSR write, a turn of the commit pass and a whole operation do, said once each. -/

namespace Sys2Proof.Machine

/-! ### The CSR's bits -/

theorem getLsbD_bitAt (p q : Nat) (f : Bool) (hq : q < 32) : (bitAt p f).getLsbD q = (q == p && f) := by
  unfold bitAt
  cases f
  · simp
  · rw [if_pos rfl, BitVec.getLsbD_twoPow, Bool.eq_iff_iff]
    by_cases h : q = p
    · subst h
      simpa using hq
    · have : ¬p = q := fun e => h e.symm
      simp [h, this]

/-- Each bit of the packed CSR is the field that stands there (30_encoding.md R73). -/
theorem getLsbD_csrInt (l : Layout) (c : Channel) (p : Nat) (hp : p < 32) :
    (csrInt l c).getLsbD p = csrBit l c p := by
  have hd : isD2M c.dir = decide (c.dir = .d2m) := by cases c.dir <;> rfl
  simp [csrInt, getLsbD_bitAt _ _ _ hp, csrBit, hd]

/-! ### CSR writes -/

/-- Every CSR write to a decoded channel is `csrWrite` with the effect of its command, however it is
spelt (41_csr_commands.md R130). -/
theorem exec_csrWriteOf {i : Instr} {c : Command} {ch : Chan} {v : CsrValue} {s : State}
    (h : csrWriteOf s.cfg i = some (c, ch, v)) : exec i s = csrWrite ch v (commandEffect c ch) s := by
  rw [Laws.exec_eq_execKind]
  unfold csrWriteOf at h
  split at h
  · next hk =>
    cases h
    rw [hk]
    rfl
  · next hk =>
    split at h
    · next hv hd =>
      cases h
      rw [hk]
      simp only [Laws.execKind, Laws.execStore, execWrCsr, hv, hd]
      split
      · rfl
      · next hw => simp [csrWrite, hw]
    · cases h
  · cases h

theorem csrWrite_of_next {ch : Chan} {v : CsrValue} {effect : State → Result} {s u : State}
    (hw : csrValueWidth v = csrWidth s.cfg.gen)
    (h : effect (storeDir ch (csrWriteValue s.cfg v) (s.answer .none)) = .next u) :
    csrWrite ch v effect s = .next (u.irqRelease ch) := by
  simp [csrWrite, hw, h]

theorem calls_irqRelease (s : State) (ch : Chan) :
    (s.irqRelease ch).calls = releaseCalls s.cfg ch ++ s.calls := by
  unfold State.irqRelease State.driveLine releaseCalls
  split <;> simp [*]

theorem lineAt_irqRelease (s : State) (ch : Chan) : LineAt ch false (s.irqRelease ch) := by
  intro l hl
  rw [State.level_irqRelease]
  simp at hl
  simp [hl]

@[simp] theorem calls_storeDir (s : State) (ch : Chan) (w : Word) : (storeDir ch w s).calls = s.calls := by
  unfold storeDir
  split <;> rfl

@[simp] theorem calls_doReset (s : State) (ch : Chan) : (doReset ch s).calls = s.calls := rfl

@[simp] theorem calls_doInitBuf (s : State) (ch : Chan) :
    (doInitBuf ch s).calls = .devInitBuffers ch :: s.calls := by
  unfold doInitBuf
  split <;> rfl

@[simp] theorem staging_doInitBuf (s : State) (ch : Chan) :
    (doInitBuf ch s).staging =
      if ch = .storage then { s.staging with count := 0 } else s.staging := by
  unfold doInitBuf
  split <;> rfl

/-- The channel a command starts from: its direction stored (41_csr_commands.md R131). -/
theorem chan_storeDir_dirAfter (s : State) (ch : Chan) (v : CsrValue) :
    (storeDir ch (csrWriteValue s.cfg v) (s.answer .none)).chan ch =
      { s.chan ch with dir := dirAfter s.cfg v (s.chan ch).dir } := by
  simp [dirAfter, dirBit]
  split <;> simp [*]

/-! ### One turn of the pass -/

/-- What is the same after the word writes of a burst, whichever way they end. -/
theorem writeWords_frame {base : Addr} {left w : Nat} {s : State} :
    (∀ t, writeWords base left w s = .ok t →
      t.chans = s.chans ∧ t.cfg = s.cfg ∧ t.staging = s.staging ∧ t.ready = s.ready) ∧
    (∀ a t, writeWords base left w s = .busFault a t →
      t.chans = s.chans ∧ t.cfg = s.cfg ∧ t.staging = s.staging ∧ t.ready = s.ready) :=
  writeWords_invariant
    (fun t => t.chans = s.chans ∧ t.cfg = s.cfg ∧ t.staging = s.staging ∧ t.ready = s.ready)
    (fun _ _ _ _ h => h) (fun _ _ h => h) base left w s ⟨rfl, rfl, rfl, rfl⟩

/-- Everything a turn can do: leave as it is, be refused, record a fault, or commit a burst and complete,
leave or go on (42_burst_engine.md R164 to R167, R170, R171). -/
theorem commitTurn_cases (s : State) :
    (canCommit s = false ∧ commitTurn s = .leave s) ∨
    (canCommit s = true ∧ commitMisaligned s.cfg (s.chan .storage) = true ∧
      commitTurn s = .refuse .misaligned) ∨
    (canCommit s = true ∧ commitMisaligned s.cfg (s.chan .storage) = false ∧ ∃ u,
      u.chans = s.chans ∧ u.cfg = s.cfg ∧ u.staging = s.staging ∧ u.ready = s.ready ∧
      (commitTurn s = .leave (faultTransition u) ∨
        (commitTurn s = .leave (atLimit (burstDone u)) ∧
          ((burstDone u).chan .storage).next = ((burstDone u).chan .storage).limit) ∨
        commitTurn s = .leave (burstDone u) ∨ commitTurn s = .again (burstDone u))) := by
  unfold commitTurn
  cases hc : canCommit s
  · exact .inl ⟨rfl, by simp⟩
  · right
    cases hm : commitMisaligned s.cfg (s.chan .storage)
    · right
      refine ⟨rfl, rfl, ?_⟩
      cases hw : writeWords (s.chan .storage).next (s.cfg.burst / wordBytes) 0 s with
      | busFault a u =>
        obtain ⟨h1, h2, h3, h4⟩ := writeWords_frame.2 _ _ hw
        exact ⟨u, h1, h2, h3, h4, .inl (by simp)⟩
      | ok u =>
        obtain ⟨h1, h2, h3, h4⟩ := writeWords_frame.1 _ hw
        refine ⟨u, h1, h2, h3, h4, .inr ?_⟩
        simp only [if_true, Bool.false_eq_true, if_false]
        split
        · next h => exact .inl ⟨rfl, h⟩
        · split
          · exact .inr (.inl rfl)
          · exact .inr (.inr rfl)
    · exact .inl ⟨rfl, rfl, by simp⟩

/-! ### A whole operation -/

/-- Everything an operation that answers a next state has done, by its kind. -/
theorem exec_next_cases {i : Instr} {s t : State} (h : exec i s = .next t) :
    (∃ r off w m, kindOf i = .read r off w ∧ t = s.answer m) ∨
    (∃ off m, ((∃ r w, kindOf i = .read r off w) ∨ ∃ r v, kindOf i = .store r off v) ∧
      decodeChan s.cfg off = none ∧ t = (s.logMsg (.unknownChannel off)).answer m) ∨
    (∃ r off w ch, r ≠ .csr ∧ kindOf i = .store r off (.word w) ∧ decodeChan s.cfg off = some ch ∧
      t = (s.modChan ch fun c => storeRegister w c r).answer .none) ∨
    (∃ c ch v u, csrWriteOf s.cfg i = some (c, ch, v) ∧ csrValueWidth v = csrWidth s.cfg.gen ∧
      commandEffect c ch (storeDir ch (csrWriteValue s.cfg v) (s.answer .none)) = .next u ∧
      t = u.irqRelease ch) ∨
    (kindOf i = .commit ∧ commitPass (s.answer .none) = .next t) ∨
    (kindOf i = .flush ∧ flush (s.answer .none) = .next t) ∨
    (∃ ch, kindOf i = .blockRead ch ∧ memReadXfer ch s = .next t) ∨
    (∃ ch bs, kindOf i = .blockWrite ch bs ∧ memWriteXfer ch bs (s.answer .none) = .next t) ∨
    (kindOf i = .reset ∧ t = systemReset (s.answer .none)) := by
  rw [Laws.exec_eq_execKind] at h
  cases hk : kindOf i with
  | read r off w =>
    rw [hk] at h
    simp only [Laws.execKind] at h
    obtain ⟨-, ⟨hd, rfl⟩ | ⟨ch, -, rfl⟩⟩ := regRead_next h
    · exact .inr (.inl ⟨off, _, .inl ⟨_, _, rfl⟩, hd, rfl⟩)
    · exact .inl ⟨_, _, _, _, rfl, rfl⟩
  | store r off v =>
    rw [hk] at h
    by_cases hr : r = .csr
    · subst hr
      obtain ⟨cv, hv, hw, ⟨hd, rfl⟩ | ⟨ch, hd, h⟩⟩ := execWrCsr_next h
      · exact .inr (.inl ⟨off, _, .inr ⟨_, _, rfl⟩, hd, rfl⟩)
      · obtain ⟨-, u, hu, rfl⟩ := csrWrite_next h
        refine .inr (.inr (.inr (.inl ⟨_, ch, cv, u, ?_, hw, hu, rfl⟩)))
        unfold csrWriteOf
        rw [hk]
        simp [hv, hd]
    · have h' : regWrite off v (fun w c => storeRegister w c r) s = .next t := by
        cases r <;> first | exact absurd rfl hr | exact h
      obtain ⟨w, rfl, ⟨hd, rfl⟩ | ⟨ch, hd, rfl⟩⟩ := regWrite_next h'
      · exact .inr (.inl ⟨off, _, .inr ⟨_, _, rfl⟩, hd, rfl⟩)
      · exact .inr (.inr (.inl ⟨r, off, w, ch, hr, rfl, hd, rfl⟩))
  | command c ch v =>
    rw [hk] at h
    obtain ⟨hw, u, hu, rfl⟩ := csrWrite_next h
    refine .inr (.inr (.inr (.inl ⟨c, ch, v, u, ?_, hw, hu, rfl⟩)))
    unfold csrWriteOf
    rw [hk]
  | commit =>
    rw [hk] at h
    exact .inr (.inr (.inr (.inr (.inl ⟨rfl, h⟩))))
  | flush =>
    rw [hk] at h
    exact .inr (.inr (.inr (.inr (.inr (.inl ⟨rfl, h⟩)))))
  | blockRead ch =>
    rw [hk] at h
    exact .inr (.inr (.inr (.inr (.inr (.inr (.inl ⟨_, rfl, h⟩))))))
  | blockWrite ch bs =>
    rw [hk] at h
    exact .inr (.inr (.inr (.inr (.inr (.inr (.inr (.inl ⟨_, _, rfl, h⟩)))))))
  | reset =>
    rw [hk] at h
    cases h
    exact .inr (.inr (.inr (.inr (.inr (.inr (.inr (.inr ⟨rfl, rfl⟩)))))))

end Sys2Proof.Machine
end

