-- ==== Sys2Proof/Laws/Answers.lean ====
section
/-! SUPPORT. Which of the memory accessor's answers an operation uses, and what a fault among them leaves on
the storage channel (20_memory.md R51, 42_burst_engine.md R171, R174; log 8). -/

namespace Sys2Proof.Machine

/-- From `s` to `t` only `ok` answers were used, and `busexc` of the storage channel stays. -/
def MetNoFault (s t : State) : Prop :=
  (∃ used, s.oracle = used ++ t.oracle ∧ .fault ∉ used) ∧
    (t.chan .storage).busexc = (s.chan .storage).busexc

/-- From `s` to `t` a fault was among the answers used, and the storage channel has its record. -/
def MetFault (s t : State) : Prop :=
  (∃ used, s.oracle = used ++ t.oracle ∧ .fault ∈ used) ∧
    (t.chan .storage).complete = true ∧ (t.chan .storage).busexc = true ∧
      (t.chan .storage).enable = false

theorem MetNoFault.of_eq {s t : State} (ho : t.oracle = s.oracle)
    (hb : (t.chan .storage).busexc = (s.chan .storage).busexc) : MetNoFault s t :=
  ⟨⟨[], by simp [ho]⟩, hb⟩

theorem MetNoFault.trans {s t u : State} (h₁ : MetNoFault s t) (h₂ : MetNoFault t u) :
    MetNoFault s u := by
  obtain ⟨⟨xs, hx, hx'⟩, hb⟩ := h₁
  obtain ⟨⟨ys, hy, hy'⟩, hc⟩ := h₂
  exact ⟨⟨xs ++ ys, by rw [hx, hy, List.append_assoc], by simp [hx', hy']⟩, hc.trans hb⟩

theorem MetNoFault.trans_fault {s t u : State} (h₁ : MetNoFault s t) (h₂ : MetFault t u) :
    MetFault s u := by
  obtain ⟨⟨xs, hx, -⟩, -⟩ := h₁
  obtain ⟨⟨ys, hy, hy'⟩, hr⟩ := h₂
  exact ⟨⟨xs ++ ys, by rw [hx, hy, List.append_assoc], by simp [hy']⟩, hr⟩

/-- What `MemWrite` uses: at most one answer, `ok` where it succeeds and `fault` where it faults. -/
theorem memWrite_answers (a : Addr) (bs : List Byte) (s : State) :
    (∀ t, memWrite a bs s = .ok t → MetNoFault s t) ∧
      ∀ b t, memWrite a bs s = .busFault b t → s.oracle = .fault :: t.oracle := by
  unfold memWrite
  split
  · next ho => exact ⟨fun t h => by cases h; exact .of_eq rfl rfl, fun b t h => (nomatch h)⟩
  · next rest ho =>
    exact ⟨fun t h => by cases h; exact ⟨⟨[.ok], by simp [ho]⟩, rfl⟩, fun b t h => (nomatch h)⟩
  · next rest ho => exact ⟨fun t h => (nomatch h), fun b t h => by cases h; exact ho⟩

/-- The fault transition after a fault. -/
theorem faultTransition_metFault {s t : State} (h : s.oracle = .fault :: t.oracle) :
    MetFault s (faultTransition t) :=
  ⟨⟨[.fault], by simp [h]⟩, by simp⟩

theorem writeWords_answers (base : Addr) (left w : Nat) (s : State) :
    (∀ t, writeWords base left w s = .ok t → MetNoFault s t) ∧
      ∀ a t, writeWords base left w s = .busFault a t → MetFault s (faultTransition t) := by
  induction left generalizing w s with
  | zero => exact ⟨fun t h => by cases h; exact .of_eq rfl rfl, fun a t h => by cases h⟩
  | succ left ih =>
    have hm := memWrite_answers (base + BitVec.ofNat 32 (wordBytes * w)) (stagedWord s.staging w) s
    unfold writeWords
    split
    · next a u hu =>
      exact ⟨fun t h => (nomatch h),
        fun b t h => by cases h; exact faultTransition_metFault (hm.2 _ _ hu)⟩
    · next u hu =>
      have hu := hm.1 _ hu
      exact ⟨fun t h => hu.trans ((ih _ _).1 _ h), fun a t h => hu.trans_fault ((ih _ _).2 _ _ h)⟩

/-- A turn of the pass: it goes on without a fault, and leaves with none or with the record of one. -/
theorem commitTurn_answers (s : State) :
    (∀ t, commitTurn s = .leave t → MetNoFault s t ∨ MetFault s t) ∧
      ∀ t, commitTurn s = .again t → MetNoFault s t := by
  have hw := writeWords_answers (s.chan .storage).next (s.cfg.burst / wordBytes) 0 s
  have hd : ∀ u, MetNoFault u (burstDone u) := fun u => .of_eq (by simp) (by simp)
  have hl : ∀ u, MetNoFault u (atLimit u) := fun u => .of_eq (by simp) (by simp; split <;> rfl)
  unfold commitTurn
  split
  · split
    · exact ⟨fun t h => (nomatch h), fun t h => (nomatch h)⟩
    · split
      · next a u hu => exact ⟨fun t h => by cases h; exact .inr (hw.2 _ _ hu), fun t h => (nomatch h)⟩
      · next u hu =>
        have hu := (hw.1 _ hu).trans (hd u)
        dsimp only
        split
        · exact ⟨fun t h => by cases h; exact .inl (hu.trans (hl _)), fun t h => (nomatch h)⟩
        · split
          · exact ⟨fun t h => by cases h; exact .inl hu, fun t h => (nomatch h)⟩
          · exact ⟨fun t h => (nomatch h), fun t h => by cases h; exact hu⟩
  · exact ⟨fun t h => by cases h; exact .inl (.of_eq rfl rfl), fun t h => (nomatch h)⟩

theorem commitLoop_answers (n : Nat) (s t : State) (h : commitLoop n s = .next t) :
    MetNoFault s t ∨ MetFault s t := by
  induction n generalizing s with
  | zero => cases h; exact .inl (.of_eq rfl rfl)
  | succ n ih =>
    have hf : MetNoFault s s.fill := .of_eq rfl rfl
    have ht := commitTurn_answers s.fill
    unfold commitLoop at h
    split at h
    · next u hu =>
      cases h
      exact (ht.1 _ hu).imp hf.trans hf.trans_fault
    · next u hu =>
      have hu := hf.trans (ht.2 _ hu)
      exact (ih _ h).imp hu.trans hu.trans_fault
    · cases h

/-- A commit pass meets no fault and keeps `busexc`, or meets one and records it (42_burst_engine.md R171). -/
theorem commitPass_answers {s t : State} (h : commitPass s = .next t) :
    MetNoFault s t ∨ MetFault s t := by
  rcases commitPass_next h with ⟨-, rfl⟩ | ⟨-, u, hu, rfl⟩
  · exact .inl (.of_eq rfl rfl)
  · exact commitLoop_answers _ _ u hu

/-- A flush meets no fault and keeps `busexc`, or meets one and records it (42_burst_engine.md R174). -/
theorem flush_answers {s t : State} (h : flush s = .next t) : MetNoFault s t ∨ MetFault s t := by
  have hm := memWrite_answers (s.chan .storage).next (flushWord s)
    { s with draws := s.draws + flushPad s.staging }
  rcases flush_next h with ⟨-, rfl⟩ | ⟨-, -, rfl⟩ | ⟨-, -, u, hu, rfl⟩ | ⟨-, -, a, u, hu, rfl⟩
  · exact .inl (.of_eq rfl rfl)
  · exact .inl (.of_eq rfl rfl)
  · have h₁ : MetNoFault s u := hm.1 _ hu
    exact .inl (h₁.trans (.of_eq (by simp) (by simp)))
  · exact .inr (faultTransition_metFault (hm.2 _ _ hu))

/-- The writes of a generic memory write that goes on meet no fault (43_block_transfer.md R201). -/
theorem blockWrites_answers {c : Channel} {bytes : List Byte} {s t : State}
    (h : blockWrites c bytes s = some (.ok t)) : MetNoFault s t := by
  unfold blockWrites at h
  split at h
  · split at h
    · cases h
    · dsimp only at h
      split at h
      · split at h
        · cases h
        · next u hu =>
          exact ((memWrite_answers _ _ _).1 _ hu).trans ((memWrite_answers _ _ _).1 _ (Option.some.inj h))
      · exact (memWrite_answers _ _ _).1 _ (Option.some.inj h)
  · exact (memWrite_answers _ _ _).1 _ (Option.some.inj h)

/-- The effect of a command on the storage channel: `busexc` stays, unless its commit pass meets a fault. -/
theorem commandEffect_answers {c : Command} {ch : Chan} {s t : State}
    (h : commandEffect c ch s = .next t) : MetNoFault s t ∨ MetFault s t := by
  have pass (f : Channel → Channel) (hp : passOnStorage ch (s.modChan ch f) = .next t)
      (hf : ∀ k, (f k).busexc = k.busexc) : MetNoFault s t ∨ MetFault s t := by
    have h₁ : MetNoFault s (s.modChan ch f) :=
      .of_eq rfl (by rw [State.chan_modChan]; split <;> simp [*])
    unfold passOnStorage at hp
    split at hp
    · exact (commitPass_answers hp).imp h₁.trans h₁.trans_fault
    · cases hp
      exact .inl h₁
  rcases commandEffect_cases c ch s with ⟨-, e⟩ | ⟨-, e⟩ | ⟨-, e⟩ | ⟨-, e⟩ | ⟨-, e⟩ | ⟨-, e⟩ | ⟨-, e⟩ |
    ⟨-, e⟩ | ⟨-, e⟩ <;> rw [e] at h
  · cases h; exact .inl (.of_eq (by simp) (by cases ch <;> rfl))
  · cases h; exact .inl (.of_eq (by simp) (by cases ch <;> rfl))
  · cases h; exact .inl (.of_eq (by simp) (by cases ch <;> rfl))
  · exact pass _ h fun _ => rfl
  · exact pass _ h fun _ => rfl
  · cases h; exact .inl (.of_eq rfl (by cases ch <;> rfl))
  · cases h; exact .inl (.of_eq rfl (by cases ch <;> rfl))
  · cases h; exact .inl (.of_eq rfl rfl)
  · cases h; exact .inl (.of_eq rfl rfl)

/-- Every operation but system reset meets no fault and keeps `busexc` of the storage channel, or meets one
and has recorded it (10_state.md R35). -/
theorem exec_answers {i : Instr} {s t : State} (h : exec i s = .next t) (hr : kindOf i ≠ .reset) :
    MetNoFault s t ∨ MetFault s t := by
  rcases exec_next_cases h with ⟨_, _, _, _, -, rfl⟩ | ⟨_, _, -, -, rfl⟩ | ⟨r, _, _, ch, -, -, -, rfl⟩ |
    ⟨_, ch, v, u, -, -, hu, rfl⟩ | ⟨-, hc⟩ | ⟨-, hc⟩ | ⟨ch, -, hc⟩ | ⟨ch, bs, -, hc⟩ | ⟨hk, -⟩
  · exact .inl (.of_eq rfl rfl)
  · exact .inl (.of_eq rfl rfl)
  · refine .inl (.of_eq rfl ?_)
    rw [State.chan_answer, State.chan_modChan]
    split
    · next e => subst e; cases r <;> rfl
    · rfl
  · have h₁ : MetNoFault s (storeDir ch (csrWriteValue s.cfg v) (s.answer .none)) := by
      refine .of_eq (by simp) ?_
      by_cases e : .storage = ch
      · subst e
        rw [chan_storeDir_dirAfter]
      · simp [e]
    have h₂ : MetNoFault u (u.irqRelease ch) := .of_eq (by simp) (by simp)
    rcases commandEffect_answers hu with hm | hm
    · exact .inl ((h₁.trans hm).trans h₂)
    · obtain ⟨ho, hrec⟩ := h₁.trans_fault hm
      exact .inr ⟨by simpa using ho, by simpa using hrec⟩
  · exact commitPass_answers (s := s.answer .none) hc
  · exact flush_answers (s := s.answer .none) hc
  · obtain ⟨hne, ⟨-, rfl⟩ | ⟨-, -, rfl⟩⟩ := memReadXfer_next hc
    · exact .inl (.of_eq rfl rfl)
    · exact .inl (.of_eq (by simp) (by simp [Ne.symm hne]))
  · obtain ⟨hne, ⟨-, rfl⟩ | ⟨-, u, hu, rfl⟩⟩ := memWriteXfer_next hc
    · exact .inl (.of_eq rfl rfl)
    · have h₁ := blockWrites_answers hu
      refine .inl ((MetNoFault.of_eq (by simp) (by simp)).trans (h₁.trans (.of_eq (by simp) ?_)))
      simp [Ne.symm hne]
  · exact absurd hk hr

end Sys2Proof.Machine
end

