-- ==== Sys2Proof/Tests/Slice0.lean ====
section
/-! SUPPORT. The model's own tests: decoding of words written out from the spec's encodings, the
well-formedness checks, and vectors of 95_test_vectors.md. Every expected result is the spec's. -/

namespace Sys2Proof.Tests

open Sys2Proof.Machine

/-! ### Decoding (30_encoding.md R71, R72, R76 to R80, R83) -/

/-- A register access frame: access code, width code, channel offset 0x010 or 0x150 in its low bytes. -/
def ra (code wc lo hi : Byte) (value : List Byte) : Frame := ⟨.ra, code :: wc :: lo :: hi :: 0 :: 0 :: value⟩

/-- A frame decodes to an instruction under the default configuration. -/
def spells (f : Frame) (i : Instr) : Bool :=
  match decode Config.default f with
  | .ok j => j == i
  | .error _ => false

/-- Why a frame is rejected under the default configuration. -/
def rejected (f : Frame) : Option DecodeError :=
  match decode Config.default f with
  | .ok _ => none
  | .error e => some e

/-- The access codes of 40_register_access.md R104 to R124, reads. -/
theorem test_decode_reads :
    spells (ra 0b00000 0 0x10 0 []) (.rdCsrWide 0x010) ∧
    spells (ra 0b00000 1 0x50 1 []) (.rdCsrNarrow 0x150) ∧
    spells (ra 0b00010 0 0x50 1 []) (.rdSavedNext 0x150 .word) ∧
    spells (ra 0b01010 0 0x50 1 []) (.rdSavedLimit 0x150 .word) ∧
    spells (ra 0b10010 0 0x50 1 []) (.rdSavedStart 0x150 .word) ∧
    spells (ra 0b11010 0 0x50 1 []) (.rdSavedStop 0x150 .word) ∧
    spells (ra 0b00100 0 0x50 1 []) (.rdNext 0x150 .word) ∧
    spells (ra 0b01100 0 0x50 1 []) (.rdLimit 0x150 .word) ∧
    spells (ra 0b10100 0 0x50 1 []) (.rdStart 0x150 .word) ∧
    spells (ra 0b11100 0 0x50 1 []) (.rdStop 0x150 .word) ∧
    spells (ra 0b00110 0 0x50 1 []) (.rdInit 0x150 .word) ∧
    spells (ra 0b01110 0 0x50 1 []) (.rdSize 0x150 .word) := by decide

/-- The access codes of 40_register_access.md R107 to R125 and 41_csr_commands.md R130, writes. -/
theorem test_decode_writes :
    spells (ra 0b00001 0 0x10 0 [0, 0, 5, 0]) (.wrCsr 0x010 (.word 0x00050000)) ∧
    spells (ra 0b00001 1 0x10 0 [7]) (.wrCsr 0x010 (.byte 0x07)) ∧
    spells (ra 0b00011 0 0x50 1 [0x78, 0x56, 0x34, 0x12]) (.wrSavedNext 0x150 (.word 0x12345678)) ∧
    spells (ra 0b01011 0 0x50 1 [0x78, 0x56, 0x34, 0x12]) (.wrSavedLimit 0x150 (.word 0x12345678)) ∧
    spells (ra 0b10011 0 0x50 1 [0x78, 0x56, 0x34, 0x12]) (.wrSavedStart 0x150 (.word 0x12345678)) ∧
    spells (ra 0b11011 0 0x50 1 [0x78, 0x56, 0x34, 0x12]) (.wrSavedStop 0x150 (.word 0x12345678)) ∧
    spells (ra 0b00101 0 0x50 1 [0x78, 0x56, 0x34, 0x12]) (.wrNext 0x150 (.word 0x12345678)) ∧
    spells (ra 0b01101 0 0x50 1 [0x78, 0x56, 0x34, 0x12]) (.wrLimit 0x150 (.word 0x12345678)) ∧
    spells (ra 0b10101 0 0x50 1 [0x78, 0x56, 0x34, 0x12]) (.wrStart 0x150 (.word 0x12345678)) ∧
    spells (ra 0b11101 0 0x50 1 [0x78, 0x56, 0x34, 0x12]) (.wrStop 0x150 (.word 0x12345678)) ∧
    spells (ra 0b00111 0 0x50 1 [0x78, 0x56, 0x34, 0x12]) (.wrInit 0x150 (.word 0x12345678)) ∧
    spells (ra 0b01111 0 0x50 1 [0x78, 0x56, 0x34, 0x12]) (.wrSize 0x150 (.word 0x12345678)) := by decide

/-- The recognised command words of 30_encoding.md R79 on `netRx` (index 8), wide. -/
theorem test_decode_wide_commands :
    spells ⟨.csrwWide, [0x00, 0x00, 0x10, 0x00, 8]⟩ (.cmdResetWide .netRx 0x00100000) ∧
    spells ⟨.csrwWide, [0x00, 0x00, 0x20, 0x00, 8]⟩ (.cmdInitbufWide .netRx 0x00200000) ∧
    spells ⟨.csrwWide, [0x00, 0x00, 0x30, 0x00, 8]⟩ (.cmdResetInitbufWide .netRx 0x00300000) ∧
    spells ⟨.csrwWide, [0x00, 0x00, 0x08, 0x00, 8]⟩ (.cmdClrcompleteWide .netRx 0x00080000) ∧
    spells ⟨.csrwWide, [0x00, 0x00, 0x0A, 0x00, 8]⟩ (.cmdSetsupdateClrcompleteWide .netRx 0x000A0000) ∧
    spells ⟨.csrwWide, [0x00, 0x00, 0x01, 0x00, 8]⟩ (.cmdSetenableWide .netRx 0x00010000) ∧
    spells ⟨.csrwWide, [0x00, 0x00, 0x03, 0x00, 8]⟩ (.cmdSetenableSetsupdateWide .netRx 0x00030000) ∧
    spells ⟨.csrwWide, [0x00, 0x00, 0x00, 0x00, 8]⟩ (.cmdNoneWide .netRx 0x00000000) := by decide

/-- The recognised command bytes of 30_encoding.md R79, narrow, the direction bit set (R78). -/
theorem test_decode_narrow_commands :
    spells ⟨.csrwNarrow, [0x14, 8]⟩ (.cmdResetNarrow .netRx 0x14) ∧
    spells ⟨.csrwNarrow, [0x24, 8]⟩ (.cmdInitbufNarrow .netRx 0x24) ∧
    spells ⟨.csrwNarrow, [0x34, 8]⟩ (.cmdResetInitbufNarrow .netRx 0x34) ∧
    spells ⟨.csrwNarrow, [0x0C, 8]⟩ (.cmdClrcompleteNarrow .netRx 0x0C) ∧
    spells ⟨.csrwNarrow, [0x0E, 8]⟩ (.cmdSetsupdateClrcompleteNarrow .netRx 0x0E) ∧
    spells ⟨.csrwNarrow, [0x05, 8]⟩ (.cmdSetenableNarrow .netRx 0x05) ∧
    spells ⟨.csrwNarrow, [0x07, 8]⟩ (.cmdSetenableSetsupdateNarrow .netRx 0x07) ∧
    spells ⟨.csrwNarrow, [0x04, 8]⟩ (.cmdNoneNarrow .netRx 0x04) := by decide

/-- Unrecognised command words of 30_encoding.md R80, wide, ignored bits set (R81). -/
theorem test_decode_wide_unrecognised_low :
    spells ⟨.csrwWide, [0xFF, 0xFF, 0xC2, 0xFF, 8]⟩ (.cmdUnrec02Wide .netRx 0xFFC2FFFF) ∧
    spells ⟨.csrwWide, [0xFF, 0xFF, 0xC9, 0xFF, 8]⟩ (.cmdUnrec09Wide .netRx 0xFFC9FFFF) ∧
    spells ⟨.csrwWide, [0xFF, 0xFF, 0xCB, 0xFF, 8]⟩ (.cmdUnrec0BWide .netRx 0xFFCBFFFF) ∧
    spells ⟨.csrwWide, [0xFF, 0xFF, 0xD1, 0xFF, 8]⟩ (.cmdUnrec11Wide .netRx 0xFFD1FFFF) ∧
    spells ⟨.csrwWide, [0xFF, 0xFF, 0xD2, 0xFF, 8]⟩ (.cmdUnrec12Wide .netRx 0xFFD2FFFF) ∧
    spells ⟨.csrwWide, [0xFF, 0xFF, 0xD3, 0xFF, 8]⟩ (.cmdUnrec13Wide .netRx 0xFFD3FFFF) ∧
    spells ⟨.csrwWide, [0xFF, 0xFF, 0xD8, 0xFF, 8]⟩ (.cmdUnrec18Wide .netRx 0xFFD8FFFF) ∧
    spells ⟨.csrwWide, [0xFF, 0xFF, 0xD9, 0xFF, 8]⟩ (.cmdUnrec19Wide .netRx 0xFFD9FFFF) ∧
    spells ⟨.csrwWide, [0xFF, 0xFF, 0xDA, 0xFF, 8]⟩ (.cmdUnrec1AWide .netRx 0xFFDAFFFF) ∧
    spells ⟨.csrwWide, [0xFF, 0xFF, 0xDB, 0xFF, 8]⟩ (.cmdUnrec1BWide .netRx 0xFFDBFFFF) ∧
    spells ⟨.csrwWide, [0xFF, 0xFF, 0xE1, 0xFF, 8]⟩ (.cmdUnrec21Wide .netRx 0xFFE1FFFF) ∧
    spells ⟨.csrwWide, [0xFF, 0xFF, 0xE2, 0xFF, 8]⟩ (.cmdUnrec22Wide .netRx 0xFFE2FFFF) := by decide

/-- Unrecognised command bytes of 30_encoding.md R80, narrow. -/
theorem test_decode_narrow_unrecognised_low :
    spells ⟨.csrwNarrow, [0x02, 8]⟩ (.cmdUnrec02Narrow .netRx 0x02) ∧
    spells ⟨.csrwNarrow, [0x09, 8]⟩ (.cmdUnrec09Narrow .netRx 0x09) ∧
    spells ⟨.csrwNarrow, [0x0B, 8]⟩ (.cmdUnrec0BNarrow .netRx 0x0B) ∧
    spells ⟨.csrwNarrow, [0x11, 8]⟩ (.cmdUnrec11Narrow .netRx 0x11) ∧
    spells ⟨.csrwNarrow, [0x12, 8]⟩ (.cmdUnrec12Narrow .netRx 0x12) ∧
    spells ⟨.csrwNarrow, [0x13, 8]⟩ (.cmdUnrec13Narrow .netRx 0x13) ∧
    spells ⟨.csrwNarrow, [0x18, 8]⟩ (.cmdUnrec18Narrow .netRx 0x18) ∧
    spells ⟨.csrwNarrow, [0x19, 8]⟩ (.cmdUnrec19Narrow .netRx 0x19) ∧
    spells ⟨.csrwNarrow, [0x1A, 8]⟩ (.cmdUnrec1ANarrow .netRx 0x1A) ∧
    spells ⟨.csrwNarrow, [0x1B, 8]⟩ (.cmdUnrec1BNarrow .netRx 0x1B) ∧
    spells ⟨.csrwNarrow, [0x21, 8]⟩ (.cmdUnrec21Narrow .netRx 0x21) ∧
    spells ⟨.csrwNarrow, [0x22, 8]⟩ (.cmdUnrec22Narrow .netRx 0x22) := by decide

/-- Unrecognised command words of 30_encoding.md R80, wide, ignored bits set (R81). -/
theorem test_decode_wide_unrecognised_high :
    spells ⟨.csrwWide, [0xFF, 0xFF, 0xE3, 0xFF, 8]⟩ (.cmdUnrec23Wide .netRx 0xFFE3FFFF) ∧
    spells ⟨.csrwWide, [0xFF, 0xFF, 0xE8, 0xFF, 8]⟩ (.cmdUnrec28Wide .netRx 0xFFE8FFFF) ∧
    spells ⟨.csrwWide, [0xFF, 0xFF, 0xE9, 0xFF, 8]⟩ (.cmdUnrec29Wide .netRx 0xFFE9FFFF) ∧
    spells ⟨.csrwWide, [0xFF, 0xFF, 0xEA, 0xFF, 8]⟩ (.cmdUnrec2AWide .netRx 0xFFEAFFFF) ∧
    spells ⟨.csrwWide, [0xFF, 0xFF, 0xEB, 0xFF, 8]⟩ (.cmdUnrec2BWide .netRx 0xFFEBFFFF) ∧
    spells ⟨.csrwWide, [0xFF, 0xFF, 0xF1, 0xFF, 8]⟩ (.cmdUnrec31Wide .netRx 0xFFF1FFFF) ∧
    spells ⟨.csrwWide, [0xFF, 0xFF, 0xF2, 0xFF, 8]⟩ (.cmdUnrec32Wide .netRx 0xFFF2FFFF) ∧
    spells ⟨.csrwWide, [0xFF, 0xFF, 0xF3, 0xFF, 8]⟩ (.cmdUnrec33Wide .netRx 0xFFF3FFFF) ∧
    spells ⟨.csrwWide, [0xFF, 0xFF, 0xF8, 0xFF, 8]⟩ (.cmdUnrec38Wide .netRx 0xFFF8FFFF) ∧
    spells ⟨.csrwWide, [0xFF, 0xFF, 0xF9, 0xFF, 8]⟩ (.cmdUnrec39Wide .netRx 0xFFF9FFFF) ∧
    spells ⟨.csrwWide, [0xFF, 0xFF, 0xFA, 0xFF, 8]⟩ (.cmdUnrec3AWide .netRx 0xFFFAFFFF) ∧
    spells ⟨.csrwWide, [0xFF, 0xFF, 0xFB, 0xFF, 8]⟩ (.cmdUnrec3BWide .netRx 0xFFFBFFFF) := by decide

/-- Unrecognised command bytes of 30_encoding.md R80, narrow. -/
theorem test_decode_narrow_unrecognised_high :
    spells ⟨.csrwNarrow, [0x23, 8]⟩ (.cmdUnrec23Narrow .netRx 0x23) ∧
    spells ⟨.csrwNarrow, [0x28, 8]⟩ (.cmdUnrec28Narrow .netRx 0x28) ∧
    spells ⟨.csrwNarrow, [0x29, 8]⟩ (.cmdUnrec29Narrow .netRx 0x29) ∧
    spells ⟨.csrwNarrow, [0x2A, 8]⟩ (.cmdUnrec2ANarrow .netRx 0x2A) ∧
    spells ⟨.csrwNarrow, [0x2B, 8]⟩ (.cmdUnrec2BNarrow .netRx 0x2B) ∧
    spells ⟨.csrwNarrow, [0x31, 8]⟩ (.cmdUnrec31Narrow .netRx 0x31) ∧
    spells ⟨.csrwNarrow, [0x32, 8]⟩ (.cmdUnrec32Narrow .netRx 0x32) ∧
    spells ⟨.csrwNarrow, [0x33, 8]⟩ (.cmdUnrec33Narrow .netRx 0x33) ∧
    spells ⟨.csrwNarrow, [0x38, 8]⟩ (.cmdUnrec38Narrow .netRx 0x38) ∧
    spells ⟨.csrwNarrow, [0x39, 8]⟩ (.cmdUnrec39Narrow .netRx 0x39) ∧
    spells ⟨.csrwNarrow, [0x3A, 8]⟩ (.cmdUnrec3ANarrow .netRx 0x3A) ∧
    spells ⟨.csrwNarrow, [0x3B, 8]⟩ (.cmdUnrec3BNarrow .netRx 0x3B) := by decide

/-- The entry points of 30_encoding.md R83. -/
theorem test_decode_entry_points :
    spells ⟨.dev, [0]⟩ .devCommit ∧ spells ⟨.dev, [1]⟩ .devFlush ∧
    spells ⟨.dev, [2, 7]⟩ (.devMRead .netTx) ∧
    spells ⟨.dev, [3, 8, 2, 0, 0, 0, 0xAA, 0xBB]⟩ (.devMWrite .netRx [0xAA, 0xBB]) ∧
    spells ⟨.sys, [0]⟩ .sysReset := by decide

/-- DC6: access codes that name no register; and frames that are none. -/
theorem test_decode_rejects :
    rejected (ra 0b01000 0 0x10 0 []) = some .noSuchRegister ∧
    rejected (ra 0b10110 0 0x10 0 []) = some .noSuchRegister ∧
    rejected (ra 0b00000 2 0x10 0 []) = some .width ∧
    rejected (ra 0b00101 0 0x10 0 [1]) = some .badFrame ∧
    rejected ⟨.dev, [2, 12]⟩ = some .badFrame := by decide

/-- Opcode table words (opcode_table.json): an access code, a wide and a narrow command value. -/
theorem test_table_words :
    decodeTableWord 8 0b00101 = some (.wrNext 0 (.word 0)) ∧
    decodeTableWord 32 0x00300000 = some (.cmdResetInitbufWide .storage 0x00300000) ∧
    decodeTableWord 8 0x30 = some (.cmdResetInitbufNarrow .storage 0x30) := by decide

/-! ### Well-formedness: one ill-formed term for each check -/

theorem test_ill_formed_width : wellFormed Config.default (.rdNext 0x010 .byte) = false := by decide
theorem test_ill_formed_value_width :
    wellFormed Config.default (.wrNext 0x010 (.byte 1)) = false := by decide
theorem test_ill_formed_csr_width :
    wellFormed Config.default (.wrCsr 0x010 (.half 1)) = false := by decide
theorem test_ill_formed_wide_command :
    wellFormed Config.default (.cmdResetWide .dsp 0x00200000) = false := by decide
theorem test_ill_formed_narrow_command :
    wellFormed Config.default (.cmdUnrec02Narrow .dsp 0x03) = false := by decide
theorem test_ill_formed_read_channel : wellFormed Config.default (.devMRead .storage) = false := by
  decide
theorem test_ill_formed_write_channel :
    wellFormed Config.default (.devMWrite .storage [1]) = false := by decide

/-! ### Vectors of 95_test_vectors.md -/

/-- The default machine with one channel's fields given. -/
def start (ch : Chan) (c : Channel) : State := State.reset.setChan ch c

/-- The same on a legacy machine. -/
def legacy (s : State) : State := { s with cfg := { s.cfg with gen := .legacy } }

/-- With the line of a channel raised. -/
def raised (ch : Chan) (s : State) : State := { s with lines := s.lines.set ch true }

/-- With bytes staged, and with bytes ready at the device. -/
def staged (bs : List Byte) (s : State) : State :=
  { s with staging := ⟨bs.length, bs ++ List.replicate (s.cfg.burst - bs.length) 0⟩ }

def feeding (bs : List Byte) (s : State) : State := { s with ready := bs }

/-- `n` bytes counting up from one. -/
def bytesFrom (b : Byte) : Nat → List Byte
  | 0 => []
  | n + 1 => b :: bytesFrom (b + 1) n

/-- What a result's next state shows, none where there is no next state. -/
def sees {α : Type} (r : Result) (f : State → α) : Option α :=
  match r with
  | .next t => some (f t)
  | .fault _ => none
  | .refused _ => none

/-- Why a result is refused. -/
def refusal (r : Result) : Option Refusal :=
  match r with
  | .next _ => none
  | .fault _ => none
  | .refused e => some e

def on : Channel := { Channel.zero with enable := true }

/-- The segment of the vectors of section 2.5. -/
def ring : Channel := { on with next := 0x1000, limit := 0x1040 }

/-- DC1, DC2. -/
theorem test_decoder :
    [0x010, 0x040, 0x050, 0x080, 0x090, 0x0C0, 0x0D0, 0x110, 0x150, 0x180, 0x1D0, 0x1C0].map
      (decodeChan Config.default) = Chan.all.map some ∧
    [0x020, 0x000, 0x1E0, 0xFFFFFFFF].map (decodeChan Config.default) = [none, none, none, none] := by
  decide

/-- DC3: reads of an unknown offset return 0 at the access's width. -/
theorem test_unknown_reads :
    sees (exec (.rdNext 0x020 .word) (start .storage ring)) (·.reply) = some (.word 0) ∧
    sees (exec (.rdCsrNarrow 0x020) (legacy State.reset)) (·.reply) = some (.byte 0) := by decide

/-- DC4: a discarded CSR write leaves a raised line raised. -/
theorem test_unknown_write :
    sees (exec (.wrCsr 0x020 (.word 0x00010000)) (raised .storage State.reset))
      (fun t => (t.level ⟨.storage⟩, t.chans)) = some (true, State.reset.chans) := by decide

/-- DC7. -/
theorem test_width_refused :
    refusal (exec (.wrNext 0x010 (.byte 1)) State.reset) = some .width ∧
    refusal (exec (.rdCsrWide 0x010) (legacy State.reset)) = some .width := by decide

/-- RD8, RD9, RD10. -/
theorem test_csr_reads :
    csrInt .default { on with dir := .d2m } = 0x01040000 ∧
    csrNarrow Config.default { on with dir := .d2m } = 0x09 ∧
    csrNarrow Config.default { Channel.zero with complete := true, dir := .d2m } = 0x08 ∧
    csrInt .default ⟨.d2m, true, true, true, true, 0, 0, 0, 0, 0, 0, 0, 0, 0, 0⟩ = 0x1B040000 ∧
    csrNarrow Config.default ⟨.d2m, true, true, true, true, 0, 0, 0, 0, 0, 0, 0, 0, 0, 0⟩ = 0x1B := by
  decide

/-- CW1: `busexc` survives the reset command; the line is released. -/
theorem test_cmd_reset :
    sees (exec (.cmdResetWide .printer 0x00100000)
        (raised .printer (start .printer ⟨.d2m, true, true, true, true, 0, 0, 0, 0, 0, 0, 0, 0, 0, 0⟩)))
      (fun t => (t.chan .printer, t.level ⟨.printer⟩)) =
      some ({ Channel.zero with busexc := true }, false) := by decide

/-- CW2: a direction set in the same write is undone. -/
theorem test_cmd_reset_dir :
    sees (exec (.cmdResetWide .printer 0x00140000) State.reset) (fun t => (t.chan .printer).dir) =
      some .m2d := by decide

/-- CW3, CW4: only a write to `storage` empties the staging buffer. -/
theorem test_cmd_initbuf :
    sees (exec (.cmdInitbufWide .storage 0x00200000) (staged (bytesFrom 0 7) (start .storage on)))
      (fun t => (t.staging.count, t.calls)) =
      some (0, [.irqRelease ⟨.storage⟩, .devInitBuffers .storage]) ∧
    sees (exec (.cmdInitbufWide .printer 0x00200000) (staged (bytesFrom 0 7) State.reset))
      (fun t => (t.staging.count, t.calls)) =
      some (7, [.irqRelease ⟨.printer⟩, .devInitBuffers .printer]) := by decide

/-- CW5. -/
theorem test_cmd_reset_initbuf :
    sees (exec (.cmdResetInitbufWide .storage 0x00300000)
        (staged (bytesFrom 0 5) (start .storage { on with dir := .d2m })))
      (fun t => (t.chan .storage, t.staging.count)) = some (Channel.zero, 0) := by decide

/-- CW6. -/
theorem test_cmd_clrcomplete :
    sees (exec (.cmdClrcompleteWide .printer 0x00080000)
        (start .printer { Channel.zero with complete := true }))
      (fun t => (t.chan .printer).complete) = some false := by decide

/-- CW7: on `storage` the command runs a commit pass, whose completion the write's release hides. -/
theorem test_cmd_clrcomplete_storage :
    sees (exec (.cmdClrcompleteNarrow .storage 0x08)
        (legacy (raised .storage (staged (bytesFrom 0xB0 16)
          (start .storage { on with complete := true, next := 0x1000, limit := 0x1010 })))))
      (fun t => (readBytes t.mem 0x1000 16, t.chan .storage, t.level ⟨.storage⟩)) =
      some (bytesFrom 0xB0 16,
        { Channel.zero with complete := true, next := 0x1010, limit := 0x1010 }, false) := by
  decide +kernel

/-- CW8. -/
theorem test_cmd_setsupdate_clrcomplete :
    sees (exec (.cmdSetsupdateClrcompleteWide .netRx 0x000A0000)
        (start .netRx { Channel.zero with complete := true }))
      (fun t => ((t.chan .netRx).supdate, (t.chan .netRx).complete)) = some (true, false) := by decide

/-- CW9: the arming is consumed by the pass of the same write. -/
theorem test_cmd_setsupdate_clrcomplete_storage :
    sees (exec (.cmdSetsupdateClrcompleteWide .storage 0x000A0000)
        (staged (bytesFrom 0 16)
          (start .storage { on with next := 0x1000, limit := 0x1010, start := 0x4000, stop := 0x4040 })))
      (fun t => t.chan .storage) =
      some { on with next := 0x4000, limit := 0x4040, start := 0x4000, stop := 0x4040,
                     complete := true } := by decide +kernel

/-- CW10 to CW12: ignored bits of a written value have no effect. -/
theorem test_cmd_setenable :
    sees (exec (.wrCsr 0x040 (.word 0xFF01FFFF)) State.reset) (fun t => t.chan .soundOut) = some on ∧
    sees (exec (.cmdSetenableWide .soundOut 0x00010000) State.reset) (fun t => t.chan .soundOut) =
      some on := by decide

/-- CW13. -/
theorem test_cmd_setenable_setsupdate :
    sees (exec (.wrCsr 0x010 (.byte 0x07)) (legacy State.reset)) (fun t => t.chan .storage) =
      some { on with dir := .d2m, supdate := true } := by decide

/-- CW14, CW15. -/
theorem test_cmd_none :
    sees (exec (.cmdNoneWide .soundIn 0) (raised .soundIn State.reset))
      (fun t => (t.chan .soundIn, t.level ⟨.soundIn⟩)) = some (Channel.zero, false) ∧
    sees (exec (.cmdNoneNarrow .printer 0x04) (legacy State.reset)) (fun t => t.chan .printer) =
      some { Channel.zero with dir := .d2m } := by decide

/-- CW16, CW17. -/
theorem test_cmd_unrecognised :
    sees (exec (.cmdUnrec09Narrow .storage 0x09)
        (legacy (raised .storage (start .storage { Channel.zero with complete := true }))))
      (fun t => (t.chan .storage, t.level ⟨.storage⟩)) =
      some ({ Channel.zero with complete := true }, false) ∧
    sees (exec (.cmdUnrec02Narrow .printer 0x02) (legacy State.reset)) (fun t => t.chan .printer) =
      some Channel.zero := by decide

/-- CW22: the pass of a clear-complete is guarded. -/
theorem test_cmd_clrcomplete_guarded :
    sees (exec (.cmdClrcompleteWide .storage 0x00080000)
        (staged (bytesFrom 0 16)
          (start .storage { Channel.zero with complete := true, next := 0x1000, limit := 0x1010 })))
      (fun t => ((t.chan .storage).complete, t.staging.count, t.mem)) = some (false, 16, []) := by decide

/-- PV2, PV3. -/
theorem test_init_seeds_next :
    sees (exec (.wrInit 0x150 (.word 0x2000)) (start .netRx { Channel.zero with next := 0x1000 }))
      (fun t => t.chan .netRx) = some { Channel.zero with init := 0x2000, next := 0x2000 } ∧
    sees (exec (.wrNext 0x150 (.word 0x2100))
        (start .netRx { Channel.zero with init := 0x2000, next := 0x2000 }))
      (fun t => t.chan .netRx) = some { Channel.zero with init := 0x2000, next := 0x2100 } := by decide

/-- W8. -/
theorem test_snapshot_write_read :
    sees (exec (.wrSavedStop 0x0D0 (.word 0xDEADBEEF)) State.reset) (fun t => t.chan .dsp) =
      some { Channel.zero with savedStop := 0xDEADBEEF } ∧
    sees (exec (.rdSavedStop 0x0D0 .word) (start .dsp { Channel.zero with savedStop := 0xDEADBEEF }))
      (·.reply) = some (.word 0xDEADBEEF) := by decide

/-- W1 (90_conflicts.md C1, the corrected reading). -/
theorem test_commit_two_bursts :
    sees (exec .devCommit (feeding (bytesFrom 0 32) (start .storage { ring with limit := 0x1020 })))
      (fun t => (readBytes t.mem 0x1000 32, t.chan .storage, t.level ⟨.storage⟩, t.staging.count)) =
      some (bytesFrom 0 32,
        { Channel.zero with complete := true, next := 0x1020, limit := 0x1020 }, true, 0) := by
  decide +kernel

/-- CP5, pass 1: chaining reload; 16 bytes stay with the device. -/
theorem test_commit_reload :
    sees (exec .devCommit (feeding (bytesFrom 0 32)
        (start .storage { ring with limit := 0x1010, start := 0x3000, stop := 0x3020, supdate := true })))
      (fun t => (t.chan .storage, t.ready)) =
      some ({ on with complete := true, next := 0x3000, limit := 0x3020, start := 0x3000,
                      stop := 0x3020 }, bytesFrom 0x10 16) := by decide +kernel

/-- CP7: a fault on the third word; no rollback. -/
theorem test_commit_fault :
    sees (exec .devCommit { feeding (bytesFrom 0 16) (start .storage ring) with
        oracle := [.ok, .ok, .fault] })
      (fun t => (readBytes t.mem 0x1000 12, t.chan .storage, t.staging.count, t.level ⟨.storage⟩)) =
      some (bytesFrom 0 8 ++ [0, 0, 0, 0],
        { ring with enable := false, complete := true, busexc := true }, 16, true) := by decide +kernel

/-- CP1, CP9. -/
theorem test_commit_guard_and_refusal :
    sees (exec .devCommit (feeding [1] (start .storage { ring with enable := false })))
      (fun t => (t.ready, t.calls)) = some ([1], [.devHandBack, .log .commitWhileDisabled]) ∧
    refusal (exec .devCommit (feeding (bytesFrom 0 16)
      (start .storage { ring with next := 0x1002, limit := 0x1012 }))) = some .misaligned := by
  decide +kernel

/-- FL3. -/
theorem test_flush_full_word :
    sees (exec .devFlush (staged (bytesFrom 0xC0 6)
        (start .storage { on with next := 0x1010, limit := 0x1020 })))
      (fun t => (readBytes t.mem 0x1010 4, (t.chan .storage).next, stagedBytes t.staging)) =
      some (bytesFrom 0xC0 4, 0x1014, [0xC4, 0xC5]) := by decide +kernel

/-- FL1, the fields that do not rest on the free byte; FL6. -/
theorem test_flush_partial_word :
    sees (exec .devFlush (staged [0xA1, 0xA2, 0xA3]
        (start .storage { on with next := 0x1010, limit := 0x1020 })))
      (fun t => ((t.chan .storage).next, t.staging.count)) = some (0x1014, 0) ∧
    refusal (exec .devFlush (staged [0xA1, 0xA2, 0xA3]
      (start .storage { on with next := 0x1010, limit := 0x1012 }))) = some .misaligned := by
  decide +kernel

/-- GR1. -/
theorem test_block_read :
    sees (exec (.devMRead .netTx)
        { start .netTx { on with next := 0x4000, limit := 0x4004 } with
          mem := [(0x4000, 0x11), (0x4003, 0x44)] })
      (fun t => (t.reply, (t.chan .netTx).complete, (t.chan .netTx).supdate, t.level ⟨.netTx⟩)) =
      some (.block 4 [0x11, 0, 0, 0x44], true, true, true) := by decide +kernel

/-- GR4, GR7. -/
theorem test_block_read_refused :
    refusal (exec (.devMRead .netTx) (start .netTx { on with next := 0x5000, limit := 0x4000 })) =
      some .underflow ∧
    refusal (exec (.devMRead .storage) (start .storage on)) = some .notGeneric := by decide

/-- W2: the split at `limit`, the snapshots and the reload of `netRx`. -/
theorem test_block_write_split :
    sees (exec (.devMWrite .netRx (bytesFrom 0 24))
        (start .netRx { on with init := 0x2000, next := 0x2000, limit := 0x2010, start := 0x3000,
                                stop := 0x3100 }))
      (fun t => (readBytes t.mem 0x2000 16, readBytes t.mem 0x3000 8, t.chan .netRx)) =
      some (bytesFrom 0 16, bytesFrom 0x10 8,
        { on with next := 0x3000, limit := 0x3100, start := 0x3000, stop := 0x3100,
                  savedNext := 0x2000, savedLimit := 0x2018, complete := true }) := by decide +kernel

/-- GW9. -/
theorem test_block_write_fault :
    refusal (exec (.devMWrite .soundIn [1, 2])
      { start .soundIn { on with next := 0x2000, limit := 0x2010 } with oracle := [.fault] }) =
      some .genericBusFault := by decide

/-- RS1: reset clears the channels and the staging count, and drives no line. -/
theorem test_system_reset :
    sees (exec .sysReset (raised .storage (staged (bytesFrom 0 9)
        (start .storage { on with busexc := true, next := 0x1234 }))))
      (fun t => (t.chan .storage, t.staging, t.level ⟨.storage⟩)) =
      some (Channel.zero, Staging.zero 16, true) := by decide

/-- A step takes the oldest pending operation, with the bytes its device offers. -/
theorem test_step_runs_pending :
    sees (step { start .storage ring with
        pending := [⟨⟨.dev, [0]⟩, [1, 2], []⟩, ⟨⟨.sys, [0]⟩, [], []⟩] })
      (fun t => (t.staging.count, t.pending.length)) = some (2, 1) := by decide

/-- An opcode table word runs as the next operation, a narrow one on a legacy machine. -/
theorem test_fetch_word_runs :
    sees (step (State.reset.withFetchWord 8 0x21)) (fun t => t.calls) =
      some [.irqRelease ⟨.storage⟩, .log (.badCommand .unrec21)] := by decide

/-! ### Witnesses: for each statement with hypotheses, states and operands that meet them together -/

/-- A result that shows something has a next state that shows it. -/
theorem sees_next {α : Type} {r : Result} {f : State → α} {a : α} (h : sees r f = some a) :
    ∃ t, r = .next t ∧ f t = a := by
  unfold sees at h
  split at h
  · next t => exact ⟨t, rfl, Option.some.inj h⟩
  · cases h
  · cases h

/-- A result refused for a reason. -/
theorem refusal_refused {r : Result} {e : Refusal} (h : refusal r = some e) : r = .refused e := by
  unfold refusal at h
  split at h
  · cases h
  · cases h
  · next e' => rw [Option.some.inj h]

/-- A storage channel whose segment holds two bursts. -/
def twoBursts : State := start .storage { ring with limit := 0x1020 }

theorem witness_DecodeEncodeRoundTrip :
    wellFormed Config.default (.rdSize 0xFFFFFFFF .word) = true ∧
    wellFormed Config.default (.wrCsr 0 (.byte 0xFF)) = true ∧
    wellFormed Config.default (.cmdUnrec3BWide .r2m 0xFFFFFFFF) = true ∧
    wellFormed Config.default (.devMWrite .r2m []) = true ∧
    wellFormed Config.default (.devMRead .netTx) = true := by decide
theorem witness_FrameHasOneMeaning :
    decode Config.default ⟨.dev, [3, 11, 0, 0, 0, 0]⟩ = .ok (.devMWrite .r2m []) ∧
    decode Config.default ⟨.csrwNarrow, [0xFF, 11]⟩ = .ok (.cmdUnrec3BNarrow .r2m 0xFF) := by decide
theorem witness_CommandFieldMatchesExactly :
    Config.default.layout = Layout.default ∧ Config.default.narrowWriteShift = 16 := by decide
theorem witness_CodesThatNameNoRegister :
    (0b11111 : Byte) ∈ ([0b01000, 0b01001, 0b10000, 0b10001, 0b11000, 0b11001, 0b10110, 0b10111, 0b11110,
      0b11111] : List Byte) ∧
    { State.reset with pending := [⟨ra 0b11111 0 0x10 0 [1, 2, 3, 4], [], []⟩] }.pending =
      [⟨⟨.ra, [0b11111, 0, 0x10, 0, 0, 0, 1, 2, 3, 4]⟩, [], []⟩] := by decide
theorem witness_OffsetsDecodeToChannels :
    Config.default.Wf ∧ (∀ ch ∈ Chan.all, Config.default.chanOff.get ch ≠ 0xFFFFFFFF) ∧
    decodeChan State.reset.cfg 0 = none := by decide +kernel
/-- `RegisterReadsReturnTheRegister`, `RegisterWritesStoreTheValue`: the lowest and the highest offset, and
one that is no channel's. -/
theorem witness_RegisterReadsAndWrites :
    decodeChan State.reset.cfg 0x010 = some .storage ∧ decodeChan State.reset.cfg 0x1D0 = some .m2r ∧
    decodeChan State.reset.cfg 0xFFFFFFFF = none := by decide
theorem witness_ReadsChangeNothing :
    (kindOf (.rdCsrWide 0x010) = .read .csr 0x010 .word ∧
      ∃ t, exec (.rdCsrWide 0x010) twoBursts = .next t ∧ t.reply = .word 0x01000000) ∧
    (kindOf (.wrSavedStop 0x0D0 (.word 7)) = .store .savedStop 0x0D0 (.word 7) ∧
      kindOf (.rdSavedStop 0x0D0 .word) = .read .savedStop 0x0D0 .word ∧ Reg.savedStop ≠ .csr ∧
      decodeChan State.reset.cfg 0x0D0 = some .dsp) :=
  ⟨⟨rfl, sees_next (by decide)⟩, by decide⟩
theorem witness_UnknownOffsetIsNoOp :
    (kindOf (.rdCsrNarrow 0x020) = .read .csr 0x020 (ownWidth (legacy State.reset).cfg .csr) ∧
      decodeChan (legacy State.reset).cfg 0x020 = none) ∧
    (kindOf (.rdSize 0x020 .word) = .read .size 0x020 (ownWidth State.reset.cfg .size) ∧
      decodeChan State.reset.cfg 0x020 = none) ∧
    (kindOf (.wrCsr 0x020 (.word 9)) = .store .csr 0x020 (.word 9) ∧
      (BusValue.word 9).width = ownWidth State.reset.cfg .csr) := by decide
theorem witness_WrongWidthIsRefused :
    (kindOf (.rdNext 0x010 .half) = .read .next 0x010 .half ∧ Width.half ≠ ownWidth State.reset.cfg .next) ∧
    (kindOf (.wrCsr 0x010 (.byte 1)) = .store .csr 0x010 (.byte 1) ∧
      (BusValue.byte 1).width ≠ ownWidth State.reset.cfg .csr) ∧
    (kindOf (.cmdSetenableNarrow .dsp 1) = .command .setenable .dsp (.narrow 1) ∧
      csrValueWidth (.narrow 1) ≠ csrWidth State.reset.cfg.gen) := by decide
theorem witness_WideCsrReadBits :
    State.reset.cfg.gen = .current ∧ decodeChan State.reset.cfg 0x010 = some .storage ∧
    State.reset.cfg.layout = Layout.default ∧ decodeChan State.reset.cfg 0x020 = none := by decide
theorem witness_NarrowCsrReadBits :
    (legacy State.reset).cfg.gen = .legacy ∧ decodeChan (legacy State.reset).cfg 0x1C0 = some .r2m ∧
    (legacy State.reset).cfg.layout = Layout.default ∧ (legacy State.reset).cfg.narrowStatusShift = 24 ∧
    (legacy State.reset).cfg.narrowDirBit = 3 ∧ decodeChan (legacy State.reset).cfg 0x020 = none := by
  decide
theorem witness_CsrWriteEndsWithRelease :
    (csrWriteOf twoBursts.cfg (.wrCsr 0x010 (.word 0x00080000)) =
        some (.clrcomplete, .storage, .wide 0x00080000) ∧
      ∃ t, exec (.wrCsr 0x010 (.word 0x00080000)) (raised .dsp (raised .storage twoBursts)) = .next t ∧
        (t.level ⟨.storage⟩, t.level ⟨.dsp⟩) = (false, true)) ∧
    (decodeChan State.reset.cfg 0x020 = none ∧
      ∃ t, exec (.wrCsr 0x020 (.word 0)) (raised .dsp State.reset) = .next t ∧ t.level ⟨.dsp⟩ = true) :=
  ⟨⟨by decide, sees_next (by decide +kernel)⟩, by decide, sees_next (by decide)⟩
/-- A reset with the direction bit set, and a set-enable with it set. -/
theorem witness_DirectionIsStoredUngated :
    (csrWriteOf State.reset.cfg (.cmdResetWide .dsp 0x00140000) = some (.reset, .dsp, .wide 0x00140000) ∧
      ∃ t, exec (.cmdResetWide .dsp 0x00140000) State.reset = .next t ∧ (t.chan .dsp).dir = .m2d) ∧
    (csrWriteOf State.reset.cfg (.cmdSetenableWide .dsp 0x00050000) =
        some (.setenable, .dsp, .wide 0x00050000) ∧
      ∃ t, exec (.cmdSetenableWide .dsp 0x00050000) State.reset = .next t ∧ (t.chan .dsp).dir = .d2m) :=
  ⟨⟨by decide, sees_next (by decide)⟩, by decide, sees_next (by decide)⟩
theorem witness_WrCsrRunsTheCommandItCarries :
    decodeChan State.reset.cfg 0x180 = some .video ∧ State.reset.cfg.gen = .current ∧
    decodeChan (legacy State.reset).cfg 0x180 = some .video ∧ (legacy State.reset).cfg.gen = .legacy := by
  decide
theorem witness_ResetCommandClearsFourFields :
    csrWriteOf State.reset.cfg (.cmdResetWide .dsp 0x00100000) = some (.reset, .dsp, .wide 0x00100000) ∧
    csrValueWidth (.wide 0x00100000) = csrWidth State.reset.cfg.gen ∧
    csrWriteOf (legacy State.reset).cfg (.wrCsr 0x1C0 (.byte 0x14)) = some (.reset, .r2m, .narrow 0x14) ∧
    csrValueWidth (.narrow 0x14) = csrWidth (legacy State.reset).cfg.gen := by decide
theorem witness_InitbufCommandEmptiesStorageStaging :
    csrWriteOf State.reset.cfg (.cmdInitbufWide .storage 0x00200000) =
      some (.initbuf, .storage, .wide 0x00200000) ∧
    csrWriteOf State.reset.cfg (.cmdInitbufWide .printer 0x00200000) =
      some (.initbuf, .printer, .wide 0x00200000) ∧
    csrValueWidth (.wide 0x00200000) = csrWidth State.reset.cfg.gen := by decide
theorem witness_ResetInitbufCommandDoesBoth :
    csrWriteOf (legacy State.reset).cfg (.cmdResetInitbufNarrow .storage 0x30) =
      some (.resetInitbuf, .storage, .narrow 0x30) ∧
    csrValueWidth (.narrow 0x30) = csrWidth (legacy State.reset).cfg.gen := by decide
theorem witness_EnableCommandsSetTheirFlags :
    csrWriteOf State.reset.cfg (.cmdSetenableWide .video 0x00010000) =
      some (.setenable, .video, .wide 0x00010000) ∧
    csrWriteOf State.reset.cfg (.wrCsr 0x010 (.word 0xFFC7FFFF)) =
      some (.setenableSetsupdate, .storage, .wide 0xFFC7FFFF) ∧
    csrValueWidth (.wide 0) = csrWidth State.reset.cfg.gen := by decide
theorem witness_NoneAndUnrecognisedOnlyLog :
    csrWriteOf State.reset.cfg (.cmdNoneWide .m2r 0x00040000) = some (.noCommand, .m2r, .wide 0x00040000) ∧
    csrWriteOf State.reset.cfg (.cmdUnrec3BWide .m2r 0x003B0000) = some (.unrec3B, .m2r, .wide 0x003B0000) ∧
    recognised .unrec3B = false ∧ csrValueWidth (.wide 0) = csrWidth State.reset.cfg.gen := by decide
/-- The two commands with a pass: off `storage`; on it, with a pass that completes, and with one that is
refused. -/
theorem witness_CommandsThatRunAPass :
    csrWriteOf State.reset.cfg (.cmdClrcompleteWide .dsp 0x00080000) =
      some (.clrcomplete, .dsp, .wide 0x00080000) ∧
    csrWriteOf State.reset.cfg (.cmdSetsupdateClrcompleteWide .dsp 0x000A0000) =
      some (.setsupdateClrcomplete, .dsp, .wide 0x000A0000) ∧
    csrWriteOf twoBursts.cfg (.cmdClrcompleteWide .storage 0x00080000) =
      some (.clrcomplete, .storage, .wide 0x00080000) ∧
    csrWriteOf twoBursts.cfg (.cmdSetsupdateClrcompleteWide .storage 0x000A0000) =
      some (.setsupdateClrcomplete, .storage, .wide 0x000A0000) ∧
    (∃ u, exec .devCommit (feeding (bytesFrom 0 16) twoBursts) = .next u ∧ u.staging.count = 0) ∧
    exec .devCommit (feeding (bytesFrom 0 16) (start .storage { ring with next := 0x1002 })) =
      .refused .misaligned :=
  ⟨by decide, by decide, by decide, by decide, sees_next (by decide +kernel),
    refusal_refused (by decide +kernel)⟩
theorem witness_CsrWritesComplete :
    runsEngine twoBursts.cfg (.cmdClrcompleteWide .storage 0x00080000) = true ∧ twoBursts.cfg.Wf ∧
    StagingOk twoBursts ∧ SegmentOk twoBursts ∧
    runsEngine twoBursts.cfg (.cmdClrcompleteWide .dsp 0x00080000) = false := by decide +kernel
theorem witness_DisabledChannelsDoNothing :
    State.reset.cfg.enableGuard = true ∧ (State.reset.chan .storage).enable = false ∧
    (State.reset.chan .netTx).enable = false := by decide
/-- No byte, a burst and a byte, and the whole segment and a byte more. -/
theorem witness_CommitPassMovesWholeBursts :
    twoBursts.Inv ∧ NoFault twoBursts ∧ SegmentOk twoBursts ∧ (twoBursts.chan .storage).enable = true ∧
    (available twoBursts).length = 0 ∧
    (available (feeding (bytesFrom 0 1) (staged (bytesFrom 0 16) twoBursts))).length = 17 ∧
    (available (feeding (bytesFrom 0 33) twoBursts)).length = 33 ∧
    (staged (bytesFrom 0 16) twoBursts).Inv ∧
    SegmentOk (start .storage { on with next := 0xFFFFFFF0, limit := 0xFFFFFFF0 }) := by decide +kernel
/-- A fault on the first word of the first burst, and on the last word of the second. -/
theorem witness_CommitFaultKeepsWordsAlreadyWritten :
    (0 : Nat) < twoBursts.cfg.burst / wordBytes ∧
    [BusAnswer.fault] = List.replicate (0 * (twoBursts.cfg.burst / wordBytes) + 0) .ok ++ [.fault] ∧
    (3 : Nat) < twoBursts.cfg.burst / wordBytes ∧
    List.replicate 7 BusAnswer.ok ++ [.fault, .ok] =
      List.replicate (1 * (twoBursts.cfg.burst / wordBytes) + 3) .ok ++ .fault :: [.ok] ∧
    (1 + 1) * twoBursts.cfg.burst ≤ (available (feeding (bytesFrom 0 32) twoBursts)).length ∧
    (twoBursts.chan .storage).next.toNat + (1 + 1) * twoBursts.cfg.burst ≤
      (twoBursts.chan .storage).limit.toNat ∧
    (feeding (bytesFrom 0 32) twoBursts).Inv ∧ SegmentOk twoBursts := by decide +kernel
theorem witness_CompletionReloadsOnceOrDisables :
    (feeding (bytesFrom 0 32) twoBursts).Inv ∧ NoFault (feeding (bytesFrom 0 32) twoBursts) ∧
    SegmentOk (feeding (bytesFrom 0 32) twoBursts) ∧
    (twoBursts.chan .storage).next.ult (twoBursts.chan .storage).limit = true ∧
    ((twoBursts.chan .storage).limit - (twoBursts.chan .storage).next).toNat ≤
      (available (feeding (bytesFrom 0 32) twoBursts)).length ∧
    (twoBursts.chan .storage).supdate = false ∧
    ((start .storage { ring with limit := 0x1020, supdate := true }).chan .storage).supdate = true := by
  decide +kernel
/-- A segment that starts off a word, and one that is a word short of a burst. -/
theorem witness_MisalignedCommitIsRefused :
    State.reset.cfg.Wf ∧ StagingOk (staged (bytesFrom 0 16) twoBursts) ∧
    (staged (bytesFrom 0 16) twoBursts).cfg.burst ≤
      (available (staged (bytesFrom 0 16) twoBursts)).length ∧
    ((0x1000 : Word).ult 0x100C = true ∧ ((0x100C : Word) - 0x1000).toNat % 16 ≠ 0) ∧
    ((0x1001 : Word).ult 0x1011 = true ∧ (0x1001 : Word).toNat % wordBytes ≠ 0) := by decide +kernel
theorem witness_TurnBoundNeverCutsAPass :
    StagingOk twoBursts ∧ twoBursts.ready.length + 2 ≤ 2 ∧ twoBursts.ready.length + 2 ≤ 100 := by decide
/-- Each clause, by the device's calls and by a CSR write: no arming, up to `limit`; and the re-arm command,
whose pass completes and wraps. -/
theorem witness_EngineNeverPassesLimit :
    (runsEngine twoBursts.cfg .devCommit = true ∧ runsEngine twoBursts.cfg .devFlush = true ∧
      runsEngine twoBursts.cfg (.cmdSetsupdateClrcompleteWide .storage 0x000A0000) = true) ∧
    (csrWriteOf twoBursts.cfg .devCommit = none ∧
      csrWriteOf twoBursts.cfg (.cmdSetsupdateClrcompleteWide .storage 0x000A0000) =
        some (.setsupdateClrcomplete, .storage, .wide 0x000A0000)) ∧
    (twoBursts.chan .storage).next.toNat ≤ (twoBursts.chan .storage).limit.toNat ∧
    (∃ t, exec .devCommit (feeding (bytesFrom 0 32) twoBursts) = .next t ∧
      (t.chan .storage).next = 0x1020) ∧
    (∃ t, exec .devFlush (staged [1] twoBursts) = .next t ∧ (t.chan .storage).next = 0x1004) ∧
    (∃ t, exec (.cmdSetsupdateClrcompleteWide .storage 0x000A0000)
        (feeding (bytesFrom 0 32) twoBursts) = .next t ∧
      ((t.chan .storage).complete, (t.chan .storage).next) =
        (true, (twoBursts.chan .storage).start)) :=
  ⟨by decide, by decide, by decide, sees_next (by decide +kernel), sees_next (by decide +kernel),
    sees_next (f := fun t => ((t.chan .storage).complete, (t.chan .storage).next)) (by decide +kernel)⟩
/-- Each clause: guarded; nothing staged, and no room; too short, and off a word; one byte, and a word more
than one, with exactly a word of room. -/
theorem witness_FlushWritesOneWord :
    (State.reset.cfg.enableGuard = true ∧ (State.reset.chan .storage).enable = false) ∧
    (twoBursts.staging.count = 0 ∧ (twoBursts.chan .storage).enable = true) ∧
    (0x1000 : Word).ult 0x1000 = false ∧
    ((0x1010 : Word).ult 0x1013 = true ∧ ((0x1013 : Word) - 0x1010).toNat < wordBytes) ∧
    ((0x1011 : Word).ult 0x1020 = true ∧ (0x1011 : Word).toNat % wordBytes ≠ 0) ∧
    ((staged [1] (start .storage { on with next := 0x1010, limit := 0x1014 })).Inv ∧
      (staged [1] twoBursts).staging.count ≠ 0 ∧ (staged (bytesFrom 0 5) twoBursts).Inv ∧
      twoBursts.oracle.head? ≠ some .fault ∧ (0x1010 : Word).ult 0x1014 = true ∧
      (0x1010 : Word).toNat % wordBytes = 0 ∧ wordBytes ≤ ((0x1014 : Word) - 0x1010).toNat) := by
  decide +kernel
theorem witness_FlushFaultRecordsTheFault :
    { staged [1] twoBursts with oracle := [.fault] }.oracle = .fault :: [] ∧
    (twoBursts.chan .storage).enable = true ∧ (staged [1] twoBursts).staging.count ≠ 0 ∧
    (twoBursts.chan .storage).next.ult (twoBursts.chan .storage).limit = true ∧
    (twoBursts.chan .storage).next.toNat % wordBytes = 0 ∧
    wordBytes ≤ ((twoBursts.chan .storage).limit - (twoBursts.chan .storage).next).toNat := by
  decide +kernel
/-- Each clause: a fault used, and `busexc` risen with it; `busexc` kept by the reset command. -/
theorem witness_BusexcIsSetOnlyWithAFaultRecord :
    ((twoBursts.chan .storage).busexc = false ∧
      ∃ t, exec .devFlush { staged [1] twoBursts with oracle := [.fault] } = .next t ∧
        ([.fault] ++ t.oracle, (t.chan .storage).busexc) = ([.fault], true)) ∧
    (kindOf (.cmdResetWide .storage 0x00100000) ≠ .reset ∧
      ∃ t, exec (.cmdResetWide .storage 0x00100000) (start .storage { on with busexc := true }) = .next t ∧
        (t.chan .storage).busexc = true) :=
  ⟨⟨by decide, sees_next (f := fun t => ([.fault] ++ t.oracle, (t.chan .storage).busexc))
    (by decide +kernel)⟩, by decide, sees_next (by decide)⟩
/-- A size of 0 at `init`, and an underflow by one at `next`. -/
theorem witness_MemoryReadReturnsTheBlock :
    let c : Channel := { on with init := 0x4000, limit := 0x4000 }
    let d : Channel := { on with next := 0x4001, limit := 0x4000 }
    Chan.netTx ≠ .storage ∧ baseOf c = 0x4000 ∧ (baseOf c).toNat ≤ c.limit.toNat ∧
      sizePointer Config.default .netTx c = baseOf c ∧ baseOf d = 0x4001 ∧
      d.limit.toNat < (baseOf d).toNat := by decide
/-- At `next` with `init` 0; and at `init`, with exactly the room there is. -/
theorem witness_MemoryWriteInOnePiece :
    let c : Channel := { on with next := 0xFFFFFFFF }
    let d : Channel := { on with init := 0x2000, limit := 0x2002 }
    (start .netRx c).Inv ∧ NoFault (start .netRx c) ∧ c.init = 0 ∧ (start .netRx d).Inv ∧ d.init ≠ 0 ∧
      d.init.toNat + [1, 2].length ≤ d.limit.toNat := by decide +kernel
/-- With no room at all, and with one byte of two. -/
theorem witness_MemoryWriteSplitsAtLimit :
    let c : Channel := { on with init := 0x2000, limit := 0x2000, start := 0x3000 }
    let d : Channel := { on with init := 0x2000, limit := 0x2001, start := 0x3000 }
    (start .netRx c).Inv ∧ NoFault (start .netRx c) ∧ c.init ≠ 0 ∧ c.init.toNat ≤ c.limit.toNat ∧
      c.limit.toNat - c.init.toNat < [1].length ∧ (start .netRx d).Inv ∧
      d.init.toNat ≤ d.limit.toNat ∧ d.limit.toNat - d.init.toNat < [1, 2].length := by decide +kernel
/-- Each clause: an underflow by one; a fault on the first write; and one on the second of a split, with no
room at all. -/
theorem witness_MemoryWriteRefusals :
    let c : Channel := { on with init := 0x2001, limit := 0x2000 }
    let d : Channel := { on with init := 0x2000, limit := 0x2000 }
    c.enable = true ∧ c.init ≠ 0 ∧ c.limit.toNat < c.init.toNat ∧ on.init = 0 ∧
      d.init.toNat ≤ d.limit.toNat ∧
      { start .netRx d with oracle := [.fault] }.oracle = .fault :: [] ∧
      d.init ≠ 0 ∧ d.limit.toNat - d.init.toNat < [1].length ∧
      { start .netRx d with oracle := [.ok, .fault] }.oracle = .ok :: .fault :: [] := by decide
theorem witness_ReceivedSizeIsTheSnapshotDifference :
    [1, 2].length < 2 ^ 32 ∧ ((start .netRx on).chan .netRx).enable = true ∧
    ∃ t, exec (.devMWrite .netRx [1, 2]) (start .netRx on) = .next t ∧ (t.chan .netRx).savedLimit = 2 :=
  ⟨by decide, by decide, sees_next (by decide +kernel)⟩
theorem witness_LinesRiseOnlyAtCompletionsAndFaults :
    State.reset.level ⟨.netRx⟩ = false ∧
    ∃ t, exec (.devMWrite .netRx [1]) (start .netRx on) = .next t ∧ t.level ⟨.netRx⟩ = true :=
  ⟨by decide, sees_next (by decide +kernel)⟩
theorem witness_LinesFallOnlyByCsrWrites :
    (raised .dsp State.reset).level ⟨.dsp⟩ = true ∧
    ∃ t, exec (.wrCsr 0x0D0 (.word 0)) (raised .dsp State.reset) = .next t ∧ t.level ⟨.dsp⟩ = false :=
  ⟨by decide, sees_next (by decide)⟩
theorem witness_OtherChannelsAreUntouched :
    kindOf .devCommit ≠ .reset ∧ targetOf twoBursts.cfg .devCommit ≠ some .dsp ∧
    ∃ t, exec .devCommit (feeding (bytesFrom 0 32) twoBursts) = .next t ∧
      (t.chan .storage).complete = true :=
  ⟨by decide, by decide, sees_next (by decide +kernel)⟩
theorem witness_MemoryChangesOnlyByTransfers :
    runsEngine State.reset.cfg (.cmdClrcompleteWide .dsp 0x00080000) = false ∧
    (∀ ch bytes, kindOf (.cmdClrcompleteWide .dsp 0x00080000) ≠ .blockWrite ch bytes) ∧
    ∃ t, exec (.cmdClrcompleteWide .dsp 0x00080000) State.reset = .next t ∧ t.mem = [] :=
  ⟨by decide, fun _ _ => nofun, sees_next (by decide)⟩
theorem witness_StagingChangesOnlyByStorage :
    runsEngine State.reset.cfg (.cmdInitbufWide .dsp 0x00200000) = false ∧
    kindOf (.cmdInitbufWide .dsp 0x00200000) ≠ .reset ∧
    csrWriteOf State.reset.cfg (.cmdInitbufWide .dsp 0x00200000) =
      some (.initbuf, .dsp, .wide 0x00200000) ∧
    ∃ t, exec (.cmdInitbufWide .dsp 0x00200000) (staged [1] State.reset) = .next t ∧
      t.staging.count = 1 :=
  ⟨by decide, by decide, by decide, sees_next (by decide)⟩
/-- `ReloadPointersChangeOnlyByWrites`, `SnapshotsChangeOnlyByWritesAndExtents`: a write of another register. -/
theorem witness_PointersChangeOnlyByWrites :
    kindOf (.wrNext 0x010 (.word 1)) = .store .next 0x010 (.word 1) ∧
    ∃ t, exec (.wrNext 0x010 (.word 1)) State.reset = .next t ∧ (t.chan .storage).next = 1 :=
  ⟨by decide, sees_next (by decide)⟩
/-- `ConfigurationNeverChanges`, `StepKeepsTheInvariant`: a step that moves bytes. -/
theorem witness_StepKeepsTheInvariant :
    { twoBursts with pending := [⟨⟨.dev, [0]⟩, bytesFrom 0 16, []⟩] }.Inv ∧
    ∃ t, step { twoBursts with pending := [⟨⟨.dev, [0]⟩, bytesFrom 0 16, []⟩] } = .next t ∧
      (t.chan .storage).next = 0x1010 :=
  ⟨by decide +kernel, sees_next (by decide +kernel)⟩
/-- Each reason of `OnlyTheSpecsRefusals` is raised by some operation. -/
theorem witness_OnlyTheSpecsRefusals :
    exec .devFlush (staged [1] (start .storage { ring with next := 0x1001 })) = .refused .misaligned ∧
    exec (.devMRead .dsp) (start .dsp { on with next := 1 }) = .refused .underflow ∧
    exec (.devMWrite .dsp [1]) { start .dsp on with oracle := [.fault] } = .refused .genericBusFault ∧
    exec (.devMWrite .storage [1]) State.reset = .refused .notGeneric ∧
    exec (.rdNext 0x010 .half) State.reset = .refused .width :=
  ⟨refusal_refused (by decide +kernel), refusal_refused (by decide), refusal_refused (by decide),
    refusal_refused (by decide), refusal_refused (by decide)⟩
theorem witness_StepRunsTheDecodedOperation :
    decode State.reset.cfg ⟨.sys, [0]⟩ = .ok .sysReset ∧
    decode State.reset.cfg ⟨.sys, [1]⟩ = .error .badFrame ∧ State.reset.pending = [] ∧
    { State.reset with pending := [⟨⟨.sys, [0]⟩, [], []⟩] }.pending = ⟨⟨.sys, [0]⟩, [], []⟩ :: [] := by
  decide
theorem witness_InvariantHoldsAtReset : Config.default.Wf := by decide +kernel
theorem witness_MemoryReadsBackWrites :
    Memory.wf [(0xFFFFFFFF, 1)] = true ∧ Memory.wf [] = true ∧ [1, 2].length ≤ 2 ^ 32 ∧
    writeBytes [] 0xFFFFFFFF [1, 2] = [(0, 2), (0xFFFFFFFF, 1)] := by decide +kernel

end Sys2Proof.Tests
end

/-! PROOF. The step relation: what one step runs (00_scope.md R5, R10), and that no operation writes the
configuration (00_scope.md R6, 10_state.md R31). -/

namespace Sys2Proof.Machine

/-! ### What a step runs -/

/-- The block is passive (70_reset_and_hazards.md R242). -/
theorem step_of_pending_nil {s : State} (h : s.pending = []) : step s = .next s := by
  simp [step, h]

theorem step_of_decode_ok {s : State} {r : Request} {rest : List Request} {i : Instr}
    (hp : s.pending = r :: rest) (hd : decode s.cfg r.frame = .ok i) :
    step s = exec i (s.begin r rest) := by
  simp [step, hp, hd]

theorem step_of_decode_error {s : State} {r : Request} {rest : List Request} {e : DecodeError}
    (hp : s.pending = r :: rest) (hd : decode s.cfg r.frame = .error e) :
    step s = .refused (decodeRefusal e) := by
  simp [step, hp, hd]

/-- A step that answers a next state had nothing pending, or ran the operation that the oldest pending frame
decodes to. -/
theorem step_next_cases {s t : State} (h : step s = .next t) :
    (s.pending = [] ∧ t = s) ∨
      ∃ r rest i, s.pending = r :: rest ∧ decode s.cfg r.frame = .ok i ∧
        exec i (s.begin r rest) = .next t := by
  cases hp : s.pending with
  | nil =>
    rw [step_of_pending_nil hp] at h
    cases h
    exact .inl ⟨rfl, rfl⟩
  | cons r rest =>
    cases hd : decode s.cfg r.frame with
    | error e =>
      rw [step_of_decode_error hp hd] at h
      cases h
    | ok i =>
      rw [step_of_decode_ok hp hd] at h
      exact .inr ⟨r, rest, i, rfl, hd, h⟩

/-! ### The setting: the configuration and the operations still pending -/

theorem SameSetting.refl (s : State) : SameSetting s s := ⟨rfl, rfl⟩

theorem SameSetting.trans {s t u : State} (h₁ : SameSetting s t) (h₂ : SameSetting t u) :
    SameSetting s u :=
  ⟨h₂.1.trans h₁.1, h₂.2.trans h₁.2⟩

theorem sameSetting_answer (s : State) (m : Reply) : SameSetting s (s.answer m) := ⟨rfl, rfl⟩

theorem commitPass_sameSetting {s t : State} (h : commitPass s = .next t) : SameSetting s t :=
  commitPass_invariant (SameSetting s) (fun _ _ hu => hu) (fun _ hu => hu) (fun _ _ _ _ hu => hu)
    (fun _ _ hu => hu) (fun _ hu => hu.trans (by simp [SameSetting]))
    (fun _ hu => hu.trans (by simp [SameSetting]))
    (fun _ hu => hu.trans (by simp [SameSetting])) (.refl s) h

theorem memWrite_sameSetting (a : Addr) (bs : List Byte) (s : State) :
    (∀ t, memWrite a bs s = .ok t → SameSetting s t) ∧
      ∀ b t, memWrite a bs s = .busFault b t → SameSetting s t := by
  rcases memWrite_cases a bs s with h | ⟨-, h⟩ <;> rw [h]
  · exact ⟨fun t e => by cases e; exact ⟨rfl, rfl⟩, fun b t e => nomatch e⟩
  · exact ⟨fun t e => (nomatch e), fun b t e => by cases e; exact ⟨rfl, rfl⟩⟩

theorem flush_sameSetting {s t : State} (h : flush s = .next t) : SameSetting s t := by
  have hm := memWrite_sameSetting (s.chan .storage).next (flushWord s)
    { s with draws := s.draws + flushPad s.staging }
  rcases flush_next h with ⟨-, rfl⟩ | ⟨-, -, rfl⟩ | ⟨-, -, u, hu, rfl⟩ | ⟨-, -, a, u, hu, rfl⟩
  · exact ⟨rfl, rfl⟩
  · exact .refl _
  · have hw : SameSetting s u := hm.1 u hu
    exact hw.trans (by simp [SameSetting])
  · have hw : SameSetting s u := hm.2 a u hu
    exact hw.trans (by simp [SameSetting])

theorem memReadXfer_sameSetting {ch : Chan} {s t : State} (h : memReadXfer ch s = .next t) :
    SameSetting s t := by
  obtain ⟨-, ⟨-, rfl⟩ | ⟨-, -, rfl⟩⟩ := memReadXfer_next h
  · exact ⟨rfl, rfl⟩
  · simp [SameSetting]

theorem blockWrites_sameSetting {c : Channel} {bytes : List Byte} {s t : State}
    (h : blockWrites c bytes s = some (.ok t)) : SameSetting s t := by
  rcases blockWrites_ok h with ⟨-, rfl⟩ | ⟨-, -, -, rfl⟩ | ⟨-, -, -, rfl⟩ <;> exact ⟨rfl, rfl⟩

theorem memWriteXfer_sameSetting {ch : Chan} {bytes : List Byte} {s t : State}
    (h : memWriteXfer ch bytes s = .next t) : SameSetting s t := by
  obtain ⟨-, ⟨-, rfl⟩ | ⟨-, u, hu, rfl⟩⟩ := memWriteXfer_next h
  · exact ⟨rfl, rfl⟩
  · have ha : SameSetting s (alignmentLog ch (baseOf (s.chan ch)) s) := by simp [SameSetting]
    exact (ha.trans (blockWrites_sameSetting hu)).trans (by simp [SameSetting])

theorem passOnStorage_sameSetting {ch : Chan} {s t : State} (h : passOnStorage ch s = .next t) :
    SameSetting s t := by
  unfold passOnStorage at h
  split at h
  · exact commitPass_sameSetting h
  · cases h
    exact .refl s

theorem commandEffect_sameSetting {c : Command} {ch : Chan} {s t : State}
    (h : commandEffect c ch s = .next t) : SameSetting s t := by
  rcases commandEffect_cases c ch s with ⟨-, e⟩ | ⟨-, e⟩ | ⟨-, e⟩ | ⟨-, e⟩ | ⟨-, e⟩ | ⟨-, e⟩ | ⟨-, e⟩ |
    ⟨-, e⟩ | ⟨-, e⟩ <;> rw [e] at h
  · cases h; simp [SameSetting]
  · cases h; simp [SameSetting]
  · cases h; simp [SameSetting]
  · exact passOnStorage_sameSetting (s := s.modChan ch _) h
  · exact passOnStorage_sameSetting (s := s.modChan ch _) h
  · cases h; exact ⟨rfl, rfl⟩
  · cases h; exact ⟨rfl, rfl⟩
  · cases h; exact ⟨rfl, rfl⟩
  · cases h; exact ⟨rfl, rfl⟩

/-- No operation changes the configuration or the queue of operations. -/
theorem exec_sameSetting {i : Instr} {s t : State} (h : exec i s = .next t) : SameSetting s t := by
  rcases exec_next_cases h with ⟨_, _, _, _, -, rfl⟩ | ⟨_, _, -, -, rfl⟩ | ⟨_, _, _, _, -, -, -, rfl⟩ |
    ⟨_, ch, v, u, -, -, hu, rfl⟩ | ⟨-, hc⟩ | ⟨-, hc⟩ | ⟨_, -, hc⟩ | ⟨_, _, -, hc⟩ | ⟨-, rfl⟩
  · exact sameSetting_answer s _
  · exact ⟨rfl, rfl⟩
  · exact ⟨rfl, rfl⟩
  · have hd : SameSetting s (storeDir ch (csrWriteValue s.cfg v) (s.answer .none)) := by
      simp [SameSetting]
    exact (hd.trans (commandEffect_sameSetting hu)).trans (by simp [SameSetting])
  · exact (sameSetting_answer s .none).trans (commitPass_sameSetting hc)
  · exact (sameSetting_answer s .none).trans (flush_sameSetting hc)
  · exact memReadXfer_sameSetting hc
  · exact (sameSetting_answer s .none).trans (memWriteXfer_sameSetting hc)
  · exact ⟨rfl, rfl⟩

/-! ### The statements -/

/-- Settles O51, by the three equations of `step`. -/
theorem stepRunsTheDecodedOperation : Obligations.StepRunsTheDecodedOperation := by
  refine ⟨fun s r rest i hp hd => ?runs, fun s r rest e hp hd => ?refuses, fun s hp => ?passive⟩
  case runs => exact step_of_decode_ok hp hd
  case refuses =>
    rw [step_of_decode_error hp hd]
    cases e <;> rfl
  case passive => exact step_of_pending_nil hp

/-- Settles O47: taking a request off the queue keeps the configuration, and so does every operation. -/
theorem configurationNeverChanges : Obligations.ConfigurationNeverChanges := by
  intro s t h
  rcases step_next_cases h with ⟨-, rfl⟩ | ⟨r, rest, i, -, -, hx⟩
  · rfl
  · calc t.cfg = (s.begin r rest).cfg := (exec_sameSetting hx).1
      _ = s.cfg := State.cfg_begin s r rest

end Sys2Proof.Machine

/-! PROOF. The state of the block (10_state.md R20 to R41): its invariant at reset and along every step, and
which operations can change which of its fields. -/

namespace Sys2Proof.Machine

/-! ### The effect of a command, by what it touches -/

/-- A change of a channel's direction and of its three software flags, and of nothing else. -/
def FlagUpdate (f : Channel → Channel) : Prop :=
  ∀ c, f c = { c with
    dir := (f c).dir, enable := (f c).enable, supdate := (f c).supdate, complete := (f c).complete }

theorem State.modChan_id (s : State) (ch : Chan) : s.modChan ch id = s := by
  simp [State.modChan, State.setChan, State.chan]

/-- A command that answers a next state logs, or updates flags of its channel and then does no more, empties
the buffers, or runs a commit pass (41_csr_commands.md R133 to R141). -/
theorem commandEffect_next {c : Command} {ch : Chan} {s t : State} (h : commandEffect c ch s = .next t) :
    (∃ m, t = s.logMsg m) ∨
    ∃ f, FlagUpdate f ∧
      (t = s.modChan ch f ∨
        ((c = .initbuf ∨ c = .resetInitbuf) ∧ t = doInitBuf ch (s.modChan ch f)) ∨
        ((c = .clrcomplete ∨ c = .setsupdateClrcomplete) ∧ passOnStorage ch (s.modChan ch f) = .next t)) := by
  rcases commandEffect_cases c ch s with ⟨-, e⟩ | ⟨hc, e⟩ | ⟨hc, e⟩ | ⟨hc, e⟩ | ⟨hc, e⟩ | ⟨-, e⟩ | ⟨-, e⟩ |
    ⟨-, e⟩ | ⟨-, e⟩ <;> rw [e] at h
  · cases h; exact .inr ⟨resetFields, fun _ => rfl, .inl rfl⟩
  · cases h; exact .inr ⟨id, fun _ => rfl, .inr (.inl ⟨.inl hc, by rw [State.modChan_id]⟩)⟩
  · cases h; exact .inr ⟨resetFields, fun _ => rfl, .inr (.inl ⟨.inr hc, rfl⟩)⟩
  · exact .inr ⟨_, fun _ => rfl, .inr (.inr ⟨.inl hc, h⟩)⟩
  · exact .inr ⟨_, fun _ => rfl, .inr (.inr ⟨.inr hc, h⟩)⟩
  · cases h; exact .inr ⟨_, fun _ => rfl, .inl rfl⟩
  · cases h; exact .inr ⟨_, fun _ => rfl, .inl rfl⟩
  · cases h; exact .inl ⟨_, rfl⟩
  · cases h; exact .inl ⟨_, rfl⟩

theorem passOnStorage_next {ch : Chan} {s t : State} (h : passOnStorage ch s = .next t) :
    (ch = .storage ∧ commitPass s = .next t) ∨ (ch ≠ .storage ∧ t = s) := by
  unfold passOnStorage at h
  split at h
  · next hch => exact .inl ⟨hch, h⟩
  · next hch =>
    cases h
    exact .inr ⟨hch, rfl⟩

/-! ### The invariant -/

/-- The invariant is about the configuration, memory and staging alone. -/
theorem State.Inv.of_same {s t : State} (hi : s.Inv) (hc : t.cfg = s.cfg) (hm : t.mem = s.mem)
    (hs : t.staging = s.staging) : t.Inv := by
  simpa only [State.Inv, StagingOk, hc, hm, hs] using hi

theorem State.Inv.setMem {s : State} (hi : s.Inv) (a : Addr) (bs : List Byte) (o : List BusAnswer) :
    State.Inv { s with mem := writeBytes s.mem a bs, oracle := o } := by
  obtain ⟨hcfg, hmem, hst⟩ := hi
  exact ⟨hcfg, wf_writeBytes hmem a bs, hst⟩

theorem State.Inv.setStaging {s : State} (hi : s.Inv) {st : Staging} (hc : st.count ≤ s.staging.count)
    (hb : st.buf.length = s.staging.buf.length) : State.Inv { s with staging := st } := by
  obtain ⟨hcfg, hmem, hcount, hbuf⟩ := hi
  exact ⟨hcfg, hmem, hc.trans hcount, hb.trans hbuf⟩

theorem State.Inv.fill {s : State} (hi : s.Inv) : s.fill.Inv := by
  obtain ⟨hcfg, hmem, hst⟩ := hi
  exact ⟨hcfg, hmem, fill_stagingOk hst⟩

theorem burstDone_inv {s : State} (hi : s.Inv) : (burstDone s).Inv :=
  (hi.of_same (t := s.modChan .storage fun c => { c with next := c.next + burstWord s.cfg })
    rfl rfl rfl).setStaging (Nat.zero_le _) rfl

theorem length_buf_stageDrop {st : Staging} {k : Nat} (h : st.count ≤ st.buf.length) (hk : k ≤ st.count) :
    (stageDrop st k).buf.length = st.buf.length := by
  simp only [stageDrop, List.length_append, List.length_take, List.length_drop]
  omega

/-- The bytes a flush drops leave a buffer of the same length (42_burst_engine.md R173). -/
theorem flushDone_inv {s : State} (hi : s.Inv) : (flushDone s).Inv := by
  have hle : s.staging.count ≤ s.staging.buf.length := by
    obtain ⟨-, -, hcount, hbuf⟩ := hi
    omega
  exact (hi.of_same (t := s.modChan .storage fun c => { c with next := c.next + BitVec.ofNat 32 wordBytes })
    rfl rfl rfl).setStaging (Nat.sub_le _ _) (length_buf_stageDrop hle (Nat.min_le_right _ _))

theorem doInitBuf_inv {ch : Chan} {s : State} (hi : s.Inv) : (doInitBuf ch s).Inv := by
  unfold doInitBuf
  split
  · exact hi.setStaging (Nat.zero_le _) rfl
  · exact hi

theorem systemReset_inv {s : State} (hi : s.Inv) : (systemReset s).Inv := by
  obtain ⟨hcfg, hmem, -⟩ := hi
  exact ⟨hcfg, hmem, Nat.zero_le _, List.length_replicate⟩

theorem memWrite_inv {a : Addr} {bs : List Byte} {s : State} (hi : s.Inv) :
    (∀ t, memWrite a bs s = .ok t → t.Inv) ∧ ∀ b t, memWrite a bs s = .busFault b t → t.Inv := by
  rcases memWrite_cases a bs s with h | ⟨-, h⟩ <;> rw [h]
  · exact ⟨fun t e => by cases e; exact hi.setMem a bs _, fun b t e => nomatch e⟩
  · exact ⟨fun t e => (nomatch e), fun b t e => by cases e; exact hi⟩

theorem commitPass_inv {s t : State} (hi : s.Inv) (h : commitPass s = .next t) : t.Inv :=
  commitPass_invariant State.Inv (fun _ _ hu => hu) (fun _ hu => hu.fill)
    (fun _ a bs o hu => hu.setMem a bs o) (fun _ _ hu => hu) (fun _ hu => burstDone_inv hu)
    (fun _ hu => hu.of_same (by simp) (by simp) (by simp))
    (fun _ hu => hu.of_same (by simp) (by simp) (by simp)) hi h

theorem flush_inv {s t : State} (hi : s.Inv) (h : flush s = .next t) : t.Inv := by
  have hd : State.Inv { s with draws := s.draws + flushPad s.staging } := hi
  rcases flush_next h with ⟨-, rfl⟩ | ⟨-, -, rfl⟩ | ⟨-, -, u, hu, rfl⟩ | ⟨-, -, a, u, hu, rfl⟩
  · exact hi
  · exact hi
  · exact flushDone_inv ((memWrite_inv hd).1 u hu)
  · exact ((memWrite_inv hd).2 a u hu).of_same (by simp) (by simp) (by simp)

theorem memReadXfer_inv {ch : Chan} {s t : State} (hi : s.Inv) (h : memReadXfer ch s = .next t) : t.Inv := by
  obtain ⟨-, ⟨-, rfl⟩ | ⟨-, -, rfl⟩⟩ := memReadXfer_next h
  · exact hi
  · exact hi.of_same (by simp) (by simp) (by simp)

theorem blockWrites_inv {c : Channel} {bytes : List Byte} {s t : State} (hi : s.Inv)
    (h : blockWrites c bytes s = some (.ok t)) : t.Inv := by
  rcases blockWrites_ok h with ⟨-, rfl⟩ | ⟨-, -, -, rfl⟩ | ⟨-, -, -, rfl⟩
  · exact hi.setMem _ _ _
  · exact hi.setMem _ _ _
  · exact (hi.setMem _ _ s.oracle).setMem _ _ _

theorem memWriteXfer_inv {ch : Chan} {bytes : List Byte} {s t : State} (hi : s.Inv)
    (h : memWriteXfer ch bytes s = .next t) : t.Inv := by
  obtain ⟨-, ⟨-, rfl⟩ | ⟨-, u, hu, rfl⟩⟩ := memWriteXfer_next h
  · exact hi
  · have ha : (alignmentLog ch (baseOf (s.chan ch)) s).Inv := hi.of_same (by simp) (by simp) (by simp)
    exact (blockWrites_inv ha hu).of_same (by simp) (by simp) (by simp)

theorem commandEffect_inv {c : Command} {ch : Chan} {s t : State} (hi : s.Inv)
    (h : commandEffect c ch s = .next t) : t.Inv := by
  rcases commandEffect_next h with ⟨m, rfl⟩ | ⟨f, -, rfl | ⟨-, rfl⟩ | ⟨-, hp⟩⟩
  · exact hi
  · exact hi
  · exact doInitBuf_inv (s := s.modChan ch f) hi
  · rcases passOnStorage_next hp with ⟨-, hc⟩ | ⟨-, rfl⟩
    · exact commitPass_inv (s := s.modChan ch f) hi hc
    · exact hi

/-- Every operation keeps the invariant. -/
theorem exec_inv {i : Instr} {s t : State} (hi : s.Inv) (h : exec i s = .next t) : t.Inv := by
  rcases exec_next_cases h with ⟨_, _, _, _, -, rfl⟩ | ⟨_, _, -, -, rfl⟩ | ⟨_, _, _, _, -, -, -, rfl⟩ |
    ⟨_, ch, v, u, -, -, hu, rfl⟩ | ⟨-, hc⟩ | ⟨-, hc⟩ | ⟨_, -, hc⟩ | ⟨_, _, -, hc⟩ | ⟨-, rfl⟩
  · exact hi
  · exact hi
  · exact hi
  · have hd : (storeDir ch (csrWriteValue s.cfg v) (s.answer .none)).Inv :=
      hi.of_same (by simp) (by simp) (by simp)
    exact (commandEffect_inv hd hu).of_same (by simp) (by simp) (by simp)
  · exact commitPass_inv (s := s.answer .none) hi hc
  · exact flush_inv (s := s.answer .none) hi hc
  · exact memReadXfer_inv hi hc
  · exact memWriteXfer_inv (s := s.answer .none) hi hc
  · exact systemReset_inv (s := s.answer .none) hi

theorem resetWith_inv {c : Config} (hc : c.Wf) : (State.resetWith c).Inv :=
  ⟨hc, rfl, Nat.zero_le _, List.length_replicate⟩

theorem defaultConfig_wf : Config.default.Wf := by decide +kernel

/-! ### The registers no engine and no command writes -/

/-- The reload pointers, the snapshots and `size` of a channel stay (10_state.md R26, R27, R30). -/
structure SameRegisters (c d : Channel) : Prop where
  start : d.start = c.start
  stop : d.stop = c.stop
  savedNext : d.savedNext = c.savedNext
  savedLimit : d.savedLimit = c.savedLimit
  savedStart : d.savedStart = c.savedStart
  savedStop : d.savedStop = c.savedStop
  size : d.size = c.size

theorem SameRegisters.refl (c : Channel) : SameRegisters c c := ⟨rfl, rfl, rfl, rfl, rfl, rfl, rfl⟩

theorem SameRegisters.trans {c d e : Channel} (h₁ : SameRegisters c d) (h₂ : SameRegisters d e) :
    SameRegisters c e where
  start := h₂.start.trans h₁.start
  stop := h₂.stop.trans h₁.stop
  savedNext := h₂.savedNext.trans h₁.savedNext
  savedLimit := h₂.savedLimit.trans h₁.savedLimit
  savedStart := h₂.savedStart.trans h₁.savedStart
  savedStop := h₂.savedStop.trans h₁.savedStop
  size := h₂.size.trans h₁.size

theorem FlagUpdate.sameRegisters {f : Channel → Channel} (hf : FlagUpdate f) (c : Channel) :
    SameRegisters c (f c) where
  start := by rw [hf c]
  stop := by rw [hf c]
  savedNext := by rw [hf c]
  savedLimit := by rw [hf c]
  savedStart := by rw [hf c]
  savedStop := by rw [hf c]
  size := by rw [hf c]

/-- Those registers stay on every channel, and so does `busexc` on every channel but `storage`. -/
def KeepsRegisters (s t : State) : Prop :=
  ∀ k, SameRegisters (s.chan k) (t.chan k) ∧ (k ≠ .storage → (t.chan k).busexc = (s.chan k).busexc)

theorem KeepsRegisters.of_chan_eq {s t : State} (h : ∀ k, t.chan k = s.chan k) : KeepsRegisters s t := by
  intro k
  rw [h k]
  exact ⟨.refl _, fun _ => rfl⟩

theorem KeepsRegisters.of_storage {s t : State} (hs : SameRegisters (s.chan .storage) (t.chan .storage))
    (ho : SameOtherChannels .storage s t) : KeepsRegisters s t := by
  intro k
  by_cases hk : k = .storage
  · subst hk
    exact ⟨hs, fun hne => absurd rfl hne⟩
  · rw [ho k hk]
    exact ⟨.refl _, fun _ => rfl⟩

theorem KeepsRegisters.trans {s t u : State} (h₁ : KeepsRegisters s t) (h₂ : KeepsRegisters t u) :
    KeepsRegisters s u := by
  intro k
  obtain ⟨hr₁, hb₁⟩ := h₁ k
  obtain ⟨hr₂, hb₂⟩ := h₂ k
  exact ⟨hr₁.trans hr₂, fun hk => (hb₂ hk).trans (hb₁ hk)⟩

theorem keepsRegisters_modChan (s : State) (ch : Chan) {f : Channel → Channel} (hf : FlagUpdate f) :
    KeepsRegisters s (s.modChan ch f) := by
  intro k
  rw [State.chan_modChan]
  split
  · next hk =>
    subst hk
    exact ⟨hf.sameRegisters _, fun _ => by rw [hf _]⟩
  · exact ⟨.refl _, fun _ => rfl⟩

theorem keepsRegisters_storeDir (s : State) (ch : Chan) (w : Word) : KeepsRegisters s (storeDir ch w s) := by
  unfold storeDir
  split
  · exact keepsRegisters_modChan s ch fun _ => rfl
  · exact .of_chan_eq fun _ => rfl

theorem keepsRegisters_burstDone (s : State) : KeepsRegisters s (burstDone s) :=
  .of_storage (by rw [chan_burstDone_same]; exact ⟨rfl, rfl, rfl, rfl, rfl, rfl, rfl⟩)
    fun _ hk => chan_burstDone_ne s hk

theorem keepsRegisters_flushDone (s : State) : KeepsRegisters s (flushDone s) :=
  .of_storage (by rw [chan_flushDone_same]; exact ⟨rfl, rfl, rfl, rfl, rfl, rfl, rfl⟩)
    fun _ hk => chan_flushDone_ne s hk

theorem keepsRegisters_atLimit (s : State) : KeepsRegisters s (atLimit s) :=
  .of_storage (by rw [chan_atLimit_same]; split <;> exact ⟨rfl, rfl, rfl, rfl, rfl, rfl, rfl⟩)
    fun _ hk => chan_atLimit_ne s hk

theorem keepsRegisters_faultTransition (s : State) : KeepsRegisters s (faultTransition s) :=
  .of_storage (by rw [chan_faultTransition_same]; exact ⟨rfl, rfl, rfl, rfl, rfl, rfl, rfl⟩)
    fun _ hk => chan_faultTransition_ne s hk

theorem commitPass_keepsRegisters {s t : State} (h : commitPass s = .next t) : KeepsRegisters s t :=
  commitPass_invariant (KeepsRegisters s) (fun _ _ hu => hu) (fun _ hu => hu) (fun _ _ _ _ hu => hu)
    (fun _ _ hu => hu) (fun u hu => hu.trans (keepsRegisters_burstDone u))
    (fun u hu => hu.trans (keepsRegisters_atLimit u))
    (fun u hu => hu.trans (keepsRegisters_faultTransition u)) (.of_chan_eq fun _ => rfl) h

theorem memWrite_chan {a : Addr} {bs : List Byte} {s : State} :
    (∀ t, memWrite a bs s = .ok t → ∀ k, t.chan k = s.chan k) ∧
      ∀ b t, memWrite a bs s = .busFault b t → ∀ k, t.chan k = s.chan k := by
  rcases memWrite_cases a bs s with h | ⟨-, h⟩ <;> rw [h]
  · exact ⟨fun t e k => by cases e; rfl, fun b t e => nomatch e⟩
  · exact ⟨fun t e => (nomatch e), fun b t e k => by cases e; rfl⟩

theorem flush_keepsRegisters {s t : State} (h : flush s = .next t) : KeepsRegisters s t := by
  rcases flush_next h with ⟨-, rfl⟩ | ⟨-, -, rfl⟩ | ⟨-, -, u, hu, rfl⟩ | ⟨-, -, a, u, hu, rfl⟩
  · exact .of_chan_eq fun _ => rfl
  · exact .of_chan_eq fun _ => rfl
  · exact (KeepsRegisters.of_chan_eq (memWrite_chan.1 u hu)).trans (keepsRegisters_flushDone u)
  · exact (KeepsRegisters.of_chan_eq (memWrite_chan.2 a u hu)).trans (keepsRegisters_faultTransition u)

theorem commandEffect_keepsRegisters {c : Command} {ch : Chan} {s t : State}
    (h : commandEffect c ch s = .next t) : KeepsRegisters s t := by
  rcases commandEffect_next h with ⟨m, rfl⟩ | ⟨f, hf, rfl | ⟨-, rfl⟩ | ⟨-, hp⟩⟩
  · exact .of_chan_eq fun _ => rfl
  · exact keepsRegisters_modChan s ch hf
  · exact (keepsRegisters_modChan s ch hf).trans (.of_chan_eq fun k => chan_doInitBuf _ ch k)
  · rcases passOnStorage_next hp with ⟨-, hc⟩ | ⟨-, rfl⟩
    · exact (keepsRegisters_modChan s ch hf).trans (commitPass_keepsRegisters hc)
    · exact keepsRegisters_modChan s ch hf

/-- A memory read sets two flags of its channel (43_block_transfer.md R193). -/
theorem memReadXfer_keepsRegisters {ch : Chan} {s t : State} (h : memReadXfer ch s = .next t) :
    KeepsRegisters s t := by
  obtain ⟨-, ⟨-, rfl⟩ | ⟨-, -, rfl⟩⟩ := memReadXfer_next h
  · exact .of_chan_eq fun _ => rfl
  · have ha : KeepsRegisters s (alignmentLog ch (baseOf (s.chan ch)) s) := .of_chan_eq (by simp)
    have hm := keepsRegisters_modChan (alignmentLog ch (baseOf (s.chan ch)) s) ch
      (f := fun c => { c with complete := true, supdate := true }) fun _ => rfl
    exact (ha.trans hm).trans (.of_chan_eq fun k => by simp [readDone])

/-- What a memory write transfer does to the channels (43_block_transfer.md R196 to R199). -/
theorem memWriteXfer_chan {ch : Chan} {bytes : List Byte} {s t : State}
    (h : memWriteXfer ch bytes s = .next t) (k : Chan) :
    t.chan k = s.chan k ∨ ∃ n, t.chan k = writeDoneFields ch (s.chan k).next n (s.chan k) := by
  obtain ⟨-, ⟨-, rfl⟩ | ⟨-, u, hu, rfl⟩⟩ := memWriteXfer_next h
  · exact .inl rfl
  · have hw : u.chan k = s.chan k := by
      rcases blockWrites_ok hu with ⟨-, rfl⟩ | ⟨-, -, -, rfl⟩ | ⟨-, -, -, rfl⟩ <;>
        exact chan_alignmentLog s ch _ k
    rw [← hw]
    by_cases hk : k = ch
    · subst hk
      exact .inr ⟨_, chan_writeDone_same u k _⟩
    · exact .inl (chan_writeDone_ne u ch _ hk)

/-- What an operation but reset does to a channel: a plain store, the completion of a memory write, or a
change that keeps the reload pointers, the snapshots and `size`, and `busexc` off `storage`. -/
theorem exec_chan_cases {i : Instr} {s t : State} (h : exec i s = .next t) (hr : kindOf i ≠ .reset)
    (k : Chan) :
    (∃ r off w, kindOf i = .store r off (.word w) ∧ t.chan k = storeRegister w (s.chan k) r) ∨
    (∃ ch bs n, kindOf i = .blockWrite ch bs ∧
      t.chan k = writeDoneFields ch (s.chan k).next n (s.chan k)) ∨
    (SameRegisters (s.chan k) (t.chan k) ∧ (k ≠ .storage → (t.chan k).busexc = (s.chan k).busexc)) := by
  have same {u : State} (hu : u.chan k = s.chan k) :
      SameRegisters (s.chan k) (u.chan k) ∧ (k ≠ .storage → (u.chan k).busexc = (s.chan k).busexc) := by
    rw [hu]
    exact ⟨.refl _, fun _ => rfl⟩
  rcases exec_next_cases h with ⟨_, _, _, _, -, rfl⟩ | ⟨_, _, -, -, rfl⟩ | ⟨r, off, w, ch, -, hk, -, rfl⟩ |
    ⟨_, ch, v, u, -, -, hu, rfl⟩ | ⟨-, hc⟩ | ⟨-, hc⟩ | ⟨_, -, hc⟩ | ⟨ch, bs, hk, hc⟩ | ⟨hk, -⟩
  · exact .inr (.inr (same rfl))
  · exact .inr (.inr (same rfl))
  · rw [State.chan_answer, State.chan_modChan]
    split
    · next e =>
      subst e
      exact .inl ⟨r, off, w, hk, rfl⟩
    · exact .inr (.inr (same rfl))
  · have hd : KeepsRegisters s (storeDir ch (csrWriteValue s.cfg v) (s.answer .none)) :=
      keepsRegisters_storeDir (s.answer .none) ch _
    have hl : KeepsRegisters u (u.irqRelease ch) := .of_chan_eq (by simp)
    exact .inr (.inr (((hd.trans (commandEffect_keepsRegisters hu)).trans hl) k))
  · exact .inr (.inr (commitPass_keepsRegisters (s := s.answer .none) hc k))
  · exact .inr (.inr (flush_keepsRegisters (s := s.answer .none) hc k))
  · exact .inr (.inr (memReadXfer_keepsRegisters hc k))
  · rcases memWriteXfer_chan hc k with e | ⟨n, e⟩
    · exact .inr (.inr (same e))
    · exact .inr (.inl ⟨ch, bs, n, hk, e⟩)
  · exact absurd hk hr

/-- The completion of a memory write moves two snapshots and keeps the other registers and `busexc`. -/
theorem writeDoneFields_keeps (ch : Chan) (nb n : Word) (c : Channel) :
    (writeDoneFields ch nb n c).start = c.start ∧ (writeDoneFields ch nb n c).stop = c.stop ∧
      (writeDoneFields ch nb n c).savedStart = c.savedStart ∧
      (writeDoneFields ch nb n c).savedStop = c.savedStop ∧ (writeDoneFields ch nb n c).size = c.size ∧
      (writeDoneFields ch nb n c).busexc = c.busexc := by
  unfold writeDoneFields
  simp only
  split <;> exact ⟨rfl, rfl, rfl, rfl, rfl, rfl⟩

/-- Off `storage` no operation but reset changes `busexc` (10_state.md R35). -/
theorem exec_busexc_of_ne_storage {i : Instr} {s t : State} {ch : Chan} (h : exec i s = .next t)
    (hr : kindOf i ≠ .reset) (hch : ch ≠ .storage) : (t.chan ch).busexc = (s.chan ch).busexc := by
  rcases exec_chan_cases h hr ch with ⟨r, _, w, -, e⟩ | ⟨_, _, n, -, e⟩ | ⟨-, hb⟩
  · rw [e]
    cases r <;> rfl
  · obtain ⟨-, -, -, -, -, hb⟩ := writeDoneFields_keeps _ (s.chan ch).next n (s.chan ch)
    rw [e, hb]
  · exact hb hch

/-! ### System reset -/

theorem exec_of_kindOf_reset {i : Instr} (hk : kindOf i = .reset) (s : State) :
    exec i s = .next (systemReset (s.answer .none)) := by
  rw [Laws.exec_eq_execKind, hk]
  rfl

theorem chan_systemReset (s : State) (ch : Chan) : (systemReset s).chan ch = Channel.zero :=
  PerChan.get_fill _ _

/-! ### The engine's advances -/

/-- An advance of `n` bytes that fit before `limit` neither wraps nor passes it. -/
theorem advance_within {p l : Word} {n : Nat} (hpl : p.toNat ≤ l.toNat) (hn : n ≤ (l - p).toNat) :
    p.toNat ≤ (p + BitVec.ofNat 32 n).toNat ∧ (p + BitVec.ofNat 32 n).toNat ≤ l.toNat := by
  have := l.isLt
  have hroom : (l - p).toNat = l.toNat - p.toNat := BitVec.toNat_sub_of_le hpl
  simp only [BitVec.toNat_add, BitVec.toNat_ofNat]
  omega

/-- From a channel with `next` at or below `limit`, what the engine may have done to its two pointers: an
advance up to `limit`, or the completion that wraps and uses up an arming (10_state.md R33). -/
def EngineAdvance (c d : Channel) : Prop :=
  (d.limit = c.limit ∧ c.next.toNat ≤ d.next.toNat ∧ d.next.toNat ≤ d.limit.toNat ∧
    d.supdate = c.supdate) ∨
  (c.supdate = true ∧ d.supdate = false ∧ d.complete = true ∧ d.next = c.start ∧ d.limit = c.stop)

theorem EngineAdvance.refl {c : Channel} (h : c.next.toNat ≤ c.limit.toNat) : EngineAdvance c c :=
  .inl ⟨rfl, Nat.le_refl _, h, rfl⟩

/-- An advance of `next` before the rest. -/
theorem EngineAdvance.of_next {c d : Channel} {n : Word} (hn : c.next.toNat ≤ n.toNat)
    (h : EngineAdvance { c with next := n } d) : EngineAdvance c d := by
  rcases h with ⟨hl, hle, hd, hs⟩ | hwrap
  · exact .inl ⟨hl, Nat.le_trans hn hle, hd, hs⟩
  · exact .inr hwrap

theorem engineAdvance_faultTransition (s : State)
    (h : (s.chan .storage).next.toNat ≤ (s.chan .storage).limit.toNat) :
    EngineAdvance (s.chan .storage) ((faultTransition s).chan .storage) := by
  rw [chan_faultTransition_same]
  exact .inl ⟨rfl, Nat.le_refl _, h, rfl⟩

theorem engineAdvance_atLimit (s : State)
    (h : (s.chan .storage).next.toNat ≤ (s.chan .storage).limit.toNat) :
    EngineAdvance (s.chan .storage) ((atLimit s).chan .storage) := by
  rw [chan_atLimit_same]
  split
  · next ha => exact .inr ⟨ha, rfl, rfl, rfl, rfl⟩
  · exact .inl ⟨rfl, Nat.le_refl _, h, rfl⟩

/-- A burst that may be committed fits before `limit` (42_burst_engine.md R164, R165). -/
theorem burst_fits {s : State} (hc : canCommit s = true)
    (hm : commitMisaligned s.cfg (s.chan .storage) = false) :
    (s.chan .storage).next.toNat ≤ (s.chan .storage).limit.toNat ∧
      s.cfg.burst ≤ ((s.chan .storage).limit - (s.chan .storage).next).toNat := by
  have hlt : (s.chan .storage).next.toNat < (s.chan .storage).limit.toNat := by
    simp only [canCommit, Bool.and_eq_true, BitVec.ult, decide_eq_true_eq] at hc
    exact hc.2
  have hroom : ((s.chan .storage).limit - (s.chan .storage).next).toNat =
      (s.chan .storage).limit.toNat - (s.chan .storage).next.toNat :=
    BitVec.toNat_sub_of_le (Nat.le_of_lt hlt)
  have hdvd : s.cfg.burst ∣ ((s.chan .storage).limit - (s.chan .storage).next).toNat := by
    simp only [commitMisaligned, Bool.or_eq_false_iff, bne_eq_false_iff_eq] at hm
    exact Nat.dvd_of_mod_eq_zero hm.2
  exact ⟨Nat.le_of_lt hlt, Nat.le_of_dvd (by omega) hdvd⟩

/-- A turn of the pass that leaves has advanced as the engine may, and one that goes on has advanced `next`
alone, up to `limit`. -/
theorem commitTurn_engineAdvance (s : State)
    (h : (s.chan .storage).next.toNat ≤ (s.chan .storage).limit.toNat) :
    (∀ t, commitTurn s = .leave t → EngineAdvance (s.chan .storage) (t.chan .storage)) ∧
      ∀ t, commitTurn s = .again t → ∃ n : Word, (s.chan .storage).next.toNat ≤ n.toNat ∧
        n.toNat ≤ (s.chan .storage).limit.toNat ∧
        t.chan .storage = { s.chan .storage with next := n } := by
  rcases commitTurn_cases s with ⟨-, e⟩ | ⟨-, -, e⟩ | ⟨hc, hm, u, hu, hcfg, -, -, hturn⟩
  · rw [e]
    exact ⟨fun t ht => by cases ht; exact .refl h, fun t ht => nomatch ht⟩
  · rw [e]
    exact ⟨fun t ht => (nomatch ht), fun t ht => nomatch ht⟩
  · have hchan : u.chan .storage = s.chan .storage := congrArg (PerChan.get · .storage) hu
    obtain ⟨hle, hfits⟩ := burst_fits hc hm
    obtain ⟨hn, hn'⟩ := advance_within hle hfits
    have hdone : (burstDone u).chan .storage =
        { s.chan .storage with next := (s.chan .storage).next + burstWord s.cfg } := by
      rw [chan_burstDone_same, hchan, hcfg]
    rcases hturn with e | ⟨e, -⟩ | e | e <;> rw [e]
    · refine ⟨fun t ht => ?_, fun t ht => nomatch ht⟩
      cases ht
      exact hchan ▸ engineAdvance_faultTransition u (hchan ▸ h)
    · refine ⟨fun t ht => ?_, fun t ht => nomatch ht⟩
      cases ht
      exact .of_next hn (hdone ▸ engineAdvance_atLimit (burstDone u) (by rw [hdone]; exact hn'))
    · refine ⟨fun t ht => ?_, fun t ht => nomatch ht⟩
      cases ht
      rw [hdone]
      exact .of_next hn (.refl hn')
    · refine ⟨fun t ht => (nomatch ht), fun t ht => ?_⟩
      cases ht
      exact ⟨_, hn, hn', hdone⟩

theorem commitLoop_engineAdvance (turns : Nat) (s t : State)
    (h : (s.chan .storage).next.toNat ≤ (s.chan .storage).limit.toNat)
    (ht : commitLoop turns s = .next t) : EngineAdvance (s.chan .storage) (t.chan .storage) := by
  induction turns generalizing s with
  | zero =>
    cases ht
    exact .refl h
  | succ turns ih =>
    obtain ⟨hleave, hagain⟩ := commitTurn_engineAdvance s.fill h
    unfold commitLoop at ht
    split at ht
    · next u hu =>
      cases ht
      exact hleave t hu
    · next u hu =>
      obtain ⟨n, hn, hn', hchan⟩ := hagain u hu
      exact .of_next hn (hchan ▸ ih u (by rw [hchan]; exact hn') ht)
    · cases ht

theorem commitPass_engineAdvance {s t : State}
    (h : (s.chan .storage).next.toNat ≤ (s.chan .storage).limit.toNat) (ht : commitPass s = .next t) :
    EngineAdvance (s.chan .storage) (t.chan .storage) := by
  rcases commitPass_next ht with ⟨-, rfl⟩ | ⟨-, u, hu, rfl⟩
  · exact .refl h
  · exact commitLoop_engineAdvance _ s u h hu

/-- The word of a flush fits before `limit` (42_burst_engine.md R173). -/
theorem flush_engineAdvance {s t : State}
    (h : (s.chan .storage).next.toNat ≤ (s.chan .storage).limit.toNat) (ht : flush s = .next t) :
    EngineAdvance (s.chan .storage) (t.chan .storage) := by
  rcases flush_next ht with ⟨-, rfl⟩ | ⟨-, -, rfl⟩ | ⟨-, hm, u, hu, rfl⟩ | ⟨-, -, a, u, hu, rfl⟩
  · exact .refl h
  · exact .refl h
  · have hchan : u.chan .storage = s.chan .storage := memWrite_chan.1 u hu .storage
    have hfits : wordBytes ≤ ((s.chan .storage).limit - (s.chan .storage).next).toNat := by
      simp only [flushMisaligned, Bool.or_eq_false_iff, decide_eq_false_iff_not] at hm
      exact Nat.le_of_not_lt hm.2
    obtain ⟨hn, hn'⟩ := advance_within h hfits
    rw [chan_flushDone_same, hchan]
    exact .of_next hn (.refl hn')
  · have hchan : u.chan .storage = s.chan .storage := memWrite_chan.2 a u hu .storage
    exact hchan ▸ engineAdvance_faultTransition u (hchan ▸ h)

/-- The engine runs in its two calls, and in the two commands of `storage` that trigger a pass. -/
theorem runsEngine_cases {cfg : Config} {i : Instr} (h : runsEngine cfg i = true) :
    (kindOf i = .commit ∧ csrWriteOf cfg i = none) ∨ (kindOf i = .flush ∧ csrWriteOf cfg i = none) ∨
      ∃ c v, (c = .clrcomplete ∨ c = .setsupdateClrcomplete) ∧ csrWriteOf cfg i = some (c, .storage, v) := by
  unfold runsEngine at h
  split at h
  case h_1 hk => exact .inl ⟨hk, by simp [csrWriteOf, hk]⟩
  case h_2 hk => exact .inr (.inl ⟨hk, by simp [csrWriteOf, hk]⟩)
  case h_3 | h_4 | h_5 | h_6 => cases h
  case h_7 | h_8 =>
    split at h
    · next v hw => exact .inr (.inr ⟨_, v, .inl rfl, hw⟩)
    · next v hw => exact .inr (.inr ⟨_, v, .inr rfl, hw⟩)
    · cases h

/-- A CSR write on `storage` with a command that triggers a pass runs the engine. -/
theorem runsEngine_of_csrWriteOf {cfg : Config} {i : Instr} {c : Command} {v : CsrValue}
    (h : csrWriteOf cfg i = some (c, .storage, v)) (hc : c = .clrcomplete ∨ c = .setsupdateClrcomplete) :
    runsEngine cfg i = true := by
  unfold runsEngine
  split
  case h_1 | h_2 => rfl
  case h_3 hk | h_4 hk | h_5 hk | h_6 hk => simp [csrWriteOf, hk] at h
  case h_7 | h_8 => rcases hc with rfl | rfl <;> simp [h]

/-- The pass of a command, from the arming that the command leaves (41_csr_commands.md R136, R137). -/
theorem command_engineAdvance {i : Instr} {s t : State} {v : CsrValue}
    (h : (s.chan .storage).next.toNat ≤ (s.chan .storage).limit.toNat) (ht : exec i s = .next t) :
    (csrWriteOf s.cfg i = some (.clrcomplete, .storage, v) →
      EngineAdvance (s.chan .storage) (t.chan .storage)) ∧
    (csrWriteOf s.cfg i = some (.setsupdateClrcomplete, .storage, v) →
      EngineAdvance { s.chan .storage with supdate := true } (t.chan .storage)) := by
  have pass (f : Channel → Channel) {u : State}
      (hp : commitPass
        ((storeDir .storage (csrWriteValue s.cfg v) (s.answer .none)).modChan .storage f) = .next u)
      (hf : ∀ c, (f c).next = c.next ∧ (f c).limit = c.limit) :
      EngineAdvance (f { s.chan .storage with dir := dirAfter s.cfg v (s.chan .storage).dir })
        (u.chan .storage) := by
    have hstart := State.chan_modChan_same
      (storeDir .storage (csrWriteValue s.cfg v) (s.answer .none)) .storage f
    rw [chan_storeDir_dirAfter] at hstart
    rw [← hstart]
    refine commitPass_engineAdvance ?_ hp
    obtain ⟨hnext, hlimit⟩ := hf { s.chan .storage with dir := dirAfter s.cfg v (s.chan .storage).dir }
    rw [hstart, hnext, hlimit]
    exact h
  constructor <;> intro hw <;> rw [exec_csrWriteOf hw] at ht <;>
    obtain ⟨-, u, hu, rfl⟩ := csrWrite_next ht <;> rw [State.chan_irqRelease]
  · exact pass _ hu fun _ => ⟨rfl, rfl⟩
  · exact pass _ hu fun _ => ⟨rfl, rfl⟩

/-! ### The staging buffer -/

/-- The staging buffer, the device's ready bytes and the draw counter stay. -/
def SameStaging (s t : State) : Prop := t.staging = s.staging ∧ t.ready = s.ready ∧ t.draws = s.draws

/-- On `storage` four commands touch the staging buffer, elsewhere none (41_csr_commands.md R134 to R137). -/
theorem commandEffect_sameStaging {c : Command} {ch : Chan} {s t : State}
    (h : commandEffect c ch s = .next t)
    (hpass : ch = .storage → c ≠ .clrcomplete ∧ c ≠ .setsupdateClrcomplete)
    (hinit : ch = .storage → c ≠ .initbuf ∧ c ≠ .resetInitbuf) : SameStaging s t := by
  rcases commandEffect_next h with ⟨m, rfl⟩ | ⟨f, -, rfl | ⟨hc, rfl⟩ | ⟨hc, hp⟩⟩
  · exact ⟨rfl, rfl, rfl⟩
  · exact ⟨rfl, rfl, rfl⟩
  · have hch : ch ≠ .storage := fun e => hc.elim (hinit e).1 (hinit e).2
    simp [SameStaging, hch]
  · rcases passOnStorage_next hp with ⟨e, -⟩ | ⟨-, rfl⟩
    · exact (hc.elim (hpass e).1 (hpass e).2).elim
    · exact ⟨rfl, rfl, rfl⟩

theorem memReadXfer_sameStaging {ch : Chan} {s t : State} (h : memReadXfer ch s = .next t) :
    SameStaging s t := by
  obtain ⟨-, ⟨-, rfl⟩ | ⟨-, -, rfl⟩⟩ := memReadXfer_next h
  · exact ⟨rfl, rfl, rfl⟩
  · simp [SameStaging]

theorem memWriteXfer_sameStaging {ch : Chan} {bytes : List Byte} {s t : State}
    (h : memWriteXfer ch bytes s = .next t) : SameStaging s t := by
  obtain ⟨-, ⟨-, rfl⟩ | ⟨-, u, hu, rfl⟩⟩ := memWriteXfer_next h
  · exact ⟨rfl, rfl, rfl⟩
  · rcases blockWrites_ok hu with ⟨-, rfl⟩ | ⟨-, -, -, rfl⟩ | ⟨-, -, -, rfl⟩ <;> simp [SameStaging]

/-! ### The statements -/

/-- Settles O53: taking a request off the queue touches neither memory nor staging, and every operation keeps
the invariant. -/
theorem stepKeepsTheInvariant : Obligations.StepKeepsTheInvariant := by
  intro s t hi h
  rcases step_next_cases h with ⟨-, rfl⟩ | ⟨r, rest, i, -, -, hx⟩
  · exact hi
  · exact exec_inv (s := s.begin r rest) hi hx

/-- Settles O31: a flush and a pass advance as the engine may, from the arming that the operation leaves
before them. -/
theorem engineNeverPassesLimit : Obligations.EngineNeverPassesLimit := by
  intro i s t armed hrun harmed hle ht
  have hadv : EngineAdvance { s.chan .storage with supdate := armed } (t.chan .storage) := by
    rcases runsEngine_cases hrun with ⟨hk, hw⟩ | ⟨hk, hw⟩ | ⟨c, v, hc, hw⟩
    · rw [hw] at harmed
      rw [Laws.exec_eq_execKind, hk] at ht
      rw [harmed]
      exact commitPass_engineAdvance (s := s.answer .none) hle ht
    · rw [hw] at harmed
      rw [Laws.exec_eq_execKind, hk] at ht
      rw [harmed]
      exact flush_engineAdvance (s := s.answer .none) hle ht
    · rw [hw] at harmed
      rw [harmed]
      rcases hc with rfl | rfl
      · exact (command_engineAdvance hle ht).1 hw
      · exact (command_engineAdvance hle ht).2 hw
  exact hadv

/-- Settles O34: an operation has met no fault or has recorded one; only the storage engine's record raises
`busexc`, and only reset, which uses no answer, clears it. -/
theorem busexcIsSetOnlyWithAFaultRecord : Obligations.BusexcIsSetOnlyWithAFaultRecord := by
  refine ⟨fun i s t used h ho hf => ?recorded, fun i s t ch h hb hb' => ?rises, fun i s t ch h hr hb => ?stays,
    fun s ch => ?cleared⟩
  case recorded =>
    by_cases hr : kindOf i = .reset
    · rw [exec_of_kindOf_reset hr] at h
      cases h
      have hnone : used = [] := List.append_cancel_right (ho.symm.trans rfl)
      simp [hnone] at hf
    · rcases exec_answers h hr with ⟨⟨used', ho', hf'⟩, -⟩ | ⟨-, hrec⟩
      · exact absurd (List.append_cancel_right (ho.symm.trans ho') ▸ hf) hf'
      · obtain ⟨hcomplete, hbusexc, henable⟩ := hrec
        exact ⟨hcomplete, hbusexc, henable⟩
  case rises =>
    have hr : kindOf i ≠ .reset := by
      intro hk
      rw [exec_of_kindOf_reset hk] at h
      cases h
      rw [chan_systemReset] at hb'
      cases hb'
    by_cases hch : ch = .storage
    · subst hch
      rcases exec_answers h hr with ⟨-, hsame⟩ | ⟨hused, hcomplete, -, henable⟩
      · rw [hsame, hb] at hb'
        cases hb'
      · exact ⟨rfl, hcomplete, henable, hused⟩
    · rw [exec_busexc_of_ne_storage h hr hch, hb] at hb'
      cases hb'
  case stays =>
    by_cases hch : ch = .storage
    · subst hch
      rcases exec_answers h hr with ⟨-, hsame⟩ | ⟨-, -, hbusexc, -⟩
      · exact hsame.trans hb
      · exact hbusexc
    · exact (exec_busexc_of_ne_storage h hr hch).trans hb
  case cleared =>
    exact ⟨_, exec_of_kindOf_reset rfl s, by rw [chan_systemReset]; rfl⟩

/-- Settles O44: outside the engine and reset only a command on `storage` could touch the buffer, and the two
that would are excluded. -/
theorem stagingChangesOnlyByStorage : Obligations.StagingChangesOnlyByStorage := by
  intro i s t h hrun hr hinit
  rcases exec_next_cases h with ⟨_, _, _, _, -, rfl⟩ | ⟨_, _, -, -, rfl⟩ | ⟨_, _, _, _, -, -, -, rfl⟩ |
    ⟨c, ch, v, u, hw, -, hu, rfl⟩ | ⟨hk, -⟩ | ⟨hk, -⟩ | ⟨_, -, hc⟩ | ⟨_, _, -, hc⟩ | ⟨hk, -⟩
  · exact ⟨rfl, rfl, rfl⟩
  · exact ⟨rfl, rfl, rfl⟩
  · exact ⟨rfl, rfl, rfl⟩
  · have hpass : ch = .storage → c ≠ .clrcomplete ∧ c ≠ .setsupdateClrcomplete := by
      rintro rfl
      refine ⟨fun e => ?_, fun e => ?_⟩
      · simp [runsEngine_of_csrWriteOf hw (.inl e)] at hrun
      · simp [runsEngine_of_csrWriteOf hw (.inr e)] at hrun
    have hu := commandEffect_sameStaging hu hpass (by rintro rfl; exact hinit c v hw)
    simpa [SameStaging] using hu
  · simp [runsEngine, hk] at hrun
  · simp [runsEngine, hk] at hrun
  · exact memReadXfer_sameStaging hc
  · exact memWriteXfer_sameStaging (s := s.answer .none) hc
  · exact absurd hk hr

/-- Settles O45: among the plain stores only `wr.start` and `wr.stop` write these two, a memory write only reads
them, and nothing else writes a register. -/
theorem reloadPointersChangeOnlyByWrites : Obligations.ReloadPointersChangeOnlyByWrites := by
  intro i s t ch h hr
  rcases exec_chan_cases h hr ch with ⟨r, off, w, hk, e⟩ | ⟨_, _, n, -, e⟩ | ⟨hsame, -⟩
  · rw [e, hk]
    cases r <;> simp [storeRegister]
  · obtain ⟨hstart, hstop, -⟩ := writeDoneFields_keeps _ (s.chan ch).next n (s.chan ch)
    rw [e]
    exact ⟨fun _ => hstart, fun _ => hstop⟩
  · exact ⟨fun _ => hsame.start, fun _ => hsame.stop⟩

/-- Settles O46: each plain store writes its own register, and a memory write its two extents. -/
theorem snapshotsChangeOnlyByWritesAndExtents : Obligations.SnapshotsChangeOnlyByWritesAndExtents := by
  intro i s t ch h hr
  rcases exec_chan_cases h hr ch with ⟨r, off, w, hk, e⟩ | ⟨c, bs, n, hk, e⟩ | ⟨hsame, -⟩
  · rw [e, hk]
    cases r <;> simp [storeRegister]
  · obtain ⟨-, -, hstart, hstop, hsize, -⟩ := writeDoneFields_keeps c (s.chan ch).next n (s.chan ch)
    rw [e]
    exact ⟨fun _ => hstart, fun _ => hstop, fun _ => hsize, fun _ hne => absurd hk (hne c bs),
      fun _ hne => absurd hk (hne c bs)⟩
  · exact ⟨fun _ => hsame.savedStart, fun _ => hsame.savedStop, fun _ => hsame.size,
      fun _ _ => hsame.savedNext, fun _ _ => hsame.savedLimit⟩

/-- Settles O50, by the reset state's own fields. -/
theorem resetStateIsZero : Obligations.ResetStateIsZero := by
  refine ⟨fun c ch => ?channels, fun c => ?staging, ?configuration⟩
  case channels => exact State.chan_resetWith c ch
  case staging => exact ⟨rfl, rfl, rfl⟩
  case configuration => rfl

/-- Settles O52: the reset state of an admitted configuration has empty memory and an empty buffer. -/
theorem invariantHoldsAtReset : Obligations.InvariantHoldsAtReset :=
  ⟨defaultConfig_wf, resetWith_inv defaultConfig_wf, fun _ => resetWith_inv⟩

end Sys2Proof.Machine

/-! PROOF. Main memory (20_memory.md R50 to R60): what it reads as after a write and that this determines it,
which operations can change it, and where a group's registers lie. -/

namespace Sys2Proof.Machine

/-! ### Memories that read alike -/

theorem cellRead_cons_self (a : Nat) (b : Byte) (m : Memory) : cellRead ((a, b) :: m) a = b := by
  simp [cellRead]

/-- A list reads as unlisted before its first address, and a canonical list does not at its own, so a list
that reads alike starts no later. -/
theorem cellsCanonical_head_le {k : Option Nat} {a x : Nat} {b y : Byte} {m n : Memory}
    (hm : cellsCanonical k ((a, b) :: m) = true)
    (h : ∀ i < 2 ^ 32, cellRead ((a, b) :: m) i = cellRead ((x, y) :: n) i) : x ≤ a := by
  obtain ⟨-, ha, hb, -⟩ := cellsCanonical_cons.1 hm
  by_contra hlt
  have hread := h a ha
  rw [cellRead_cons_self, cellRead, if_pos (by omega)] at hread
  exact hb hread

/-- An entry of a canonical list is never what an unlisted byte reads as, so only the empty list reads as
unlisted everywhere. -/
theorem cellsCanonical_eq_nil {k : Option Nat} {m : Memory} (hm : cellsCanonical k m = true)
    (h : ∀ i < 2 ^ 32, cellRead m i = unlistedByte) : m = [] := by
  cases m with
  | nil => rfl
  | cons c m =>
    obtain ⟨a, b⟩ := c
    obtain ⟨-, ha, hb, -⟩ := cellsCanonical_cons.1 hm
    have hread := h a ha
    rw [cellRead_cons_self] at hread
    exact absurd hread hb

/-- A tail reads as its list does above the first address, and as unlisted up to it. -/
theorem cellRead_tail {k : Option Nat} {a : Nat} {b : Byte} {m : Memory}
    (hm : cellsCanonical k ((a, b) :: m) = true) (i : Nat) :
    cellRead m i = if i ≤ a then unlistedByte else cellRead ((a, b) :: m) i := by
  obtain ⟨-, -, -, htail⟩ := cellsCanonical_cons.1 hm
  split
  · next hi => exact cellRead_below htail hi
  · rw [cellRead, if_neg (by omega), if_neg (by omega)]

/-- Canonical lists that read alike are equal: entry by entry, the first addresses bound each other, the
first bytes are what both read there, and the tails read alike again. -/
theorem cellsCanonical_ext {k j : Option Nat} {m n : Memory} (hm : cellsCanonical k m = true)
    (hn : cellsCanonical j n = true) (h : ∀ i < 2 ^ 32, cellRead m i = cellRead n i) : m = n := by
  induction m generalizing k j n with
  | nil => exact (cellsCanonical_eq_nil hn fun i hi => (h i hi).symm).symm
  | cons c m ih =>
    cases n with
    | nil => exact cellsCanonical_eq_nil hm h
    | cons d n =>
      obtain ⟨a, b⟩ := c
      obtain ⟨x, y⟩ := d
      have hax : a = x := Nat.le_antisymm (cellsCanonical_head_le hn fun i hi => (h i hi).symm)
        (cellsCanonical_head_le hm h)
      subst hax
      obtain ⟨-, ha, -, hm'⟩ := cellsCanonical_cons.1 hm
      obtain ⟨-, -, -, hn'⟩ := cellsCanonical_cons.1 hn
      have hby : b = y := by
        have hread := h a ha
        rwa [cellRead_cons_self, cellRead_cons_self] at hread
      have htail : m = n := ih hm' hn' fun i hi => by
        rw [cellRead_tail hm i, cellRead_tail hn i, h i hi]
      rw [hby, htail]

theorem Memory.ext_readByte {m n : Memory} (hm : m.wf = true) (hn : n.wf = true)
    (h : ∀ a, readByte m a = readByte n a) : m = n := by
  refine cellsCanonical_ext hm hn fun i hi => ?_
  have hread := h (BitVec.ofNat 32 i)
  rwa [readByte, readByte, BitVec.toNat_ofNat, Nat.mod_eq_of_lt hi] at hread

/-! ### A block read back -/

theorem readBytes_writeBytes {m : Memory} (h : m.wf = true) (a : Addr) (bs : List Byte)
    (hl : bs.length ≤ 2 ^ 32) : readBytes (writeBytes m a bs) a bs.length = bs := by
  refine List.ext_getElem (length_readBytes _ _ _) fun i _ hi => ?_
  rw [getElem_readBytes, readByte_writeBytes_inside h a bs hl hi]

/-! ### The operations that leave memory alone -/

/-- Of the commands only a pass on `storage` writes memory (41_csr_commands.md R136, R137). -/
theorem commandEffect_mem {c : Command} {ch : Chan} {s t : State} (h : commandEffect c ch s = .next t)
    (hpass : ch = .storage → c ≠ .clrcomplete ∧ c ≠ .setsupdateClrcomplete) : t.mem = s.mem := by
  rcases commandEffect_next h with ⟨m, rfl⟩ | ⟨f, -, rfl | ⟨-, rfl⟩ | ⟨hc, hp⟩⟩
  · rfl
  · rfl
  · rw [mem_doInitBuf, State.mem_modChan]
  · rcases passOnStorage_next hp with ⟨e, -⟩ | ⟨-, rfl⟩
    · exact (hc.elim (hpass e).1 (hpass e).2).elim
    · rfl

theorem csrWriteOf_not_pass {cfg : Config} {i : Instr} {c : Command} {ch : Chan} {v : CsrValue}
    (hw : csrWriteOf cfg i = some (c, ch, v)) (hrun : runsEngine cfg i = false) :
    ch = .storage → c ≠ .clrcomplete ∧ c ≠ .setsupdateClrcomplete := by
  rintro rfl
  refine ⟨fun e => ?_, fun e => ?_⟩
  · simp [runsEngine_of_csrWriteOf hw (.inl e)] at hrun
  · simp [runsEngine_of_csrWriteOf hw (.inr e)] at hrun

theorem memReadXfer_mem {ch : Chan} {s t : State} (h : memReadXfer ch s = .next t) : t.mem = s.mem := by
  obtain ⟨-, ⟨-, rfl⟩ | ⟨-, -, rfl⟩⟩ := memReadXfer_next h
  · rfl
  · rw [State.mem_answer, mem_readDone, mem_alignmentLog]

theorem exec_mem {i : Instr} {s t : State} (h : exec i s = .next t) (hrun : runsEngine s.cfg i = false)
    (hne : ∀ ch bytes, kindOf i ≠ .blockWrite ch bytes) : t.mem = s.mem := by
  rcases exec_next_cases h with ⟨_, _, _, _, -, rfl⟩ | ⟨_, _, -, -, rfl⟩ | ⟨_, _, _, _, -, -, -, rfl⟩ |
    ⟨c, ch, v, u, hw, -, hu, rfl⟩ | ⟨hk, -⟩ | ⟨hk, -⟩ | ⟨_, -, hc⟩ | ⟨ch, bs, hk, -⟩ | ⟨-, rfl⟩
  · rfl
  · rfl
  · rfl
  · rw [State.mem_irqRelease, commandEffect_mem hu (csrWriteOf_not_pass hw hrun), mem_storeDir,
      State.mem_answer]
  · simp [runsEngine, hk] at hrun
  · simp [runsEngine, hk] at hrun
  · exact memReadXfer_mem hc
  · exact absurd hk (hne ch bs)
  · rfl

/-! ### The registers of a group -/

theorem regAddr_zero (g : RegGroup) (ch : Chan) : Config.regAddr g 0 ch = Config.regBlock g ch :=
  BitVec.add_zero _

/-- Neighbours in a group are four bytes apart (20_memory.md R58). -/
theorem regAddr_succ (g : RegGroup) (n : Nat) (ch : Chan) :
    Config.regAddr g (n + 1) ch = Config.regAddr g n ch + 4 := by
  rw [Config.regAddr, Config.regAddr, Nat.mul_succ, BitVec.ofNat_add, BitVec.add_assoc]
  rfl

/-! ### The statements -/

/-- Settles O43: every operation outside the engine and the memory write keeps the memory list itself. -/
theorem memoryChangesOnlyByTransfers : Obligations.MemoryChangesOnlyByTransfers := by
  intro i s t h hrun hne a
  rw [exec_mem h hrun hne]

/-- Settles O54, by the law of a byte read after a block write, and extensionality of the canonical form. -/
theorem memoryReadsBackWrites : Obligations.MemoryReadsBackWrites := by
  refine ⟨fun m a bs hm hl => ⟨?canonical, ?inside, ?outside, ?block⟩, fun m m' hm hm' => ?ext⟩
  case canonical => exact wf_writeBytes hm a bs
  case inside => exact fun i hi => readByte_writeBytes_inside hm a bs hl hi
  case outside => exact fun x hx => readByte_writeBytes_outside hm a bs hl hx
  case block => exact readBytes_writeBytes hm a bs hl
  case ext => exact Memory.ext_readByte hm hm'

/-- Settles O55: the first register is at the block's address and each next one four bytes on; the indices are
`regIndex`'s own. -/
theorem registerBlocksAreFourApart : Obligations.RegisterBlocksAreFourApart := by
  intro g ch
  have h1 : Config.regAddr g 1 ch = Config.regBlock g ch + 4 := by rw [regAddr_succ, regAddr_zero]
  have h2 : Config.regAddr g 2 ch = Config.regBlock g ch + 8 := by
    rw [regAddr_succ, h1, BitVec.add_assoc]
    rfl
  have h3 : Config.regAddr g 3 ch = Config.regBlock g ch + 12 := by
    rw [regAddr_succ, h2, BitVec.add_assoc]
    rfl
  exact ⟨regAddr_zero g ch, h1, h2, h3, by decide⟩

end Sys2Proof.Machine

/-! PROOF. The encoding (30_encoding.md R70 to R84): frames and operations spell each other, a command is the
exact value of its field, and what a CSR read packs (40_register_access.md R104, R105). -/

namespace Sys2Proof.Machine

open Sys2Proof.Laws

/-! ### From an operation to its frame and back -/

/-- The encoder looks at the kind of an operation only: a command row's frame does not name its command. -/
theorem encode_eq_frameOfKind (i : Instr) : encode i = frameOfKind (kindOf i) := by
  cases i <;> rfl

/-- The operation of a kind, or why the decoder builds none: the one-to-one naming of 30_encoding.md R70. -/
def instrOfKind : Kind → Except DecodeError Instr
  | .read r off width => readInstr r off width
  | .store r off v => .ok (writeInstr r off v)
  | .command c ch (.wide v) => .ok (wideInstr c ch v)
  | .command c ch (.narrow b) => .ok (narrowInstr c ch b)
  | .commit => .ok .devCommit
  | .flush => .ok .devFlush
  | .blockRead ch => .ok (.devMRead ch)
  | .blockWrite ch bytes => .ok (.devMWrite ch bytes)
  | .reset => .ok .sysReset

theorem instrOfKind_kindOf (i : Instr) : instrOfKind (kindOf i) = .ok i := by
  cases i <;> rfl

/-- A kind whose frame holds all of it: a command is the one its value carries, and a byte count fits its four
bytes. -/
def FrameHolds (cfg : Config) : Kind → Prop
  | .command c _ v => csrCommand cfg v = c
  | .blockWrite _ bytes => bytes.length < 2 ^ 32
  | _ => True

/-- Each of the 64 command rows is well formed on the values that carry its command. -/
theorem csrCommand_of_wellFormed {cfg : Config} {i : Instr} {c : Command} {ch : Chan} {v : CsrValue}
    (hw : wellFormed cfg i = true) (hk : kindOf i = .command c ch v) : csrCommand cfg v = c := by
  cases i <;> cases hk <;> exact eq_of_beq hw

theorem length_lt_of_wellFormed {cfg : Config} {i : Instr} {ch : Chan} {bytes : List Byte}
    (hw : wellFormed cfg i = true) (hk : kindOf i = .blockWrite ch bytes) : bytes.length < 2 ^ 32 := by
  cases i <;> cases hk
  exact of_decide_eq_true (Bool.and_eq_true_iff.1 hw).2

theorem frameHolds_of_wellFormed {cfg : Config} {i : Instr} (hw : wellFormed cfg i = true) :
    FrameHolds cfg (kindOf i) := by
  cases hk : kindOf i with
  | command c ch v => exact csrCommand_of_wellFormed hw hk
  | blockWrite ch bytes => exact length_lt_of_wellFormed hw hk
  | _ => trivial

theorem decode_blockReadFrame (cfg : Config) (ch : Chan) :
    decode cfg (frameOfKind (.blockRead ch)) = .ok (.devMRead ch) := by
  simp [frameOfKind, decode, decodeDevice]

theorem decode_blockWriteFrame (cfg : Config) (ch : Chan) {bytes : List Byte} (hl : bytes.length < 2 ^ 32) :
    decode cfg (frameOfKind (.blockWrite ch bytes)) = .ok (.devMWrite ch bytes) := by
  have hcount : (BitVec.ofNat 32 bytes.length).toNat = bytes.length := Nat.mod_eq_of_lt hl
  change decodeBlock (chanIndex ch :: (bytesOf (BitVec.ofNat 32 bytes.length) ++ bytes)) = _
  simp only [decodeBlock, bytesOf, List.cons_append, List.nil_append, chanOfIndex_chanIndex, wordOf_byteOf,
    hcount, if_true]

theorem decode_frameOfKind {cfg : Config} {k : Kind} (h : FrameHolds cfg k) :
    decode cfg (frameOfKind k) = instrOfKind k := by
  cases k with
  | read r off width => exact decode_readFrame cfg r off width
  | store r off v => exact decode_writeFrame cfg r off v
  | command c ch v =>
    cases h
    cases v with
    | wide v => exact decode_wideFrame cfg ch v
    | narrow b => exact decode_narrowFrame cfg ch b
  | commit => rfl
  | flush => rfl
  | blockRead ch => exact decode_blockReadFrame cfg ch
  | blockWrite ch bytes => exact decode_blockWriteFrame cfg ch h
  | reset => rfl

/-- An operation is the one of its kind, and the frame of a kind decodes to that. -/
theorem decode_of_encode {cfg : Config} {i : Instr} {f : Frame} (hw : wellFormed cfg i = true)
    (hf : encode i = f) : decode cfg f = .ok i := by
  rw [← hf, encode_eq_frameOfKind, decode_frameOfKind (frameHolds_of_wellFormed hw), instrOfKind_kindOf]

/-! ### From a frame to its operation and back -/

/-- What decodes as a register access is a read's frame or a write's. -/
theorem decodeAccess_ok {bs : List Byte} {i : Instr} (h : decodeAccess bs = .ok i) :
    ⟨.ra, bs⟩ = frameOfKind (kindOf i) := by
  unfold decodeAccess at h
  split at h
  · next code wc o0 o1 o2 o3 rest =>
    split at h
    · cases h
    · next r hr =>
      split at h
      · cases h
      · next width hw =>
        have hcode := accessCode_of_regOfCode code r hr
        have hwidth := widthCode_of_widthOfCode hw
        split at h
        · next hwr =>
          split at h
          · next v hv =>
            obtain ⟨hvw, hvb⟩ := bytesOfValue_of_valueOf hv
            cases h
            rw [hwr] at hcode
            simp [frameOfKind, writeFrame, hcode, hvw, hwidth, hvb]
          · cases h
        · next hwr =>
          split at h
          · rw [Bool.eq_false_of_not_eq_true hwr] at hcode
            simp [kindOf_readInstr h, frameOfKind, readFrame, hcode, hwidth]
          · cases h
  · cases h

theorem decodeWide_ok {cfg : Config} {bs : List Byte} {i : Instr} (h : decodeWide cfg bs = .ok i) :
    ⟨.csrwWide, bs⟩ = frameOfKind (kindOf i) := by
  unfold decodeWide at h
  split at h
  · next b0 b1 b2 b3 idx =>
    split at h
    · cases h
    · next ch hch =>
      cases h
      simp [frameOfKind, wideFrame, chanIndex_of_chanOfIndex hch]
  · cases h

theorem decodeNarrow_ok {cfg : Config} {bs : List Byte} {i : Instr} (h : decodeNarrow cfg bs = .ok i) :
    ⟨.csrwNarrow, bs⟩ = frameOfKind (kindOf i) := by
  unfold decodeNarrow at h
  split at h
  · next b idx =>
    split at h
    · cases h
    · next ch hch =>
      cases h
      simp [frameOfKind, narrowFrame, chanIndex_of_chanOfIndex hch]
  · cases h

theorem decodeBlock_ok {bs : List Byte} {i : Instr} (h : decodeBlock bs = .ok i) :
    ⟨.dev, 3 :: bs⟩ = frameOfKind (kindOf i) := by
  unfold decodeBlock at h
  split at h
  · next idx n0 n1 n2 n3 bytes =>
    split at h
    · cases h
    · next ch hch =>
      split at h
      · next hn =>
        cases h
        have hcount : BitVec.ofNat 32 bytes.length = wordOf n0 n1 n2 n3 := by
          rw [← hn, BitVec.ofNat_toNat, BitVec.setWidth_eq]
        simp [kindOf, frameOfKind, hcount, chanIndex_of_chanOfIndex hch]
      · cases h
  · cases h

theorem decodeDevice_ok {bs : List Byte} {i : Instr} (h : decodeDevice bs = .ok i) :
    ⟨.dev, bs⟩ = frameOfKind (kindOf i) := by
  unfold decodeDevice at h
  split at h
  · cases h
  · next sel rest =>
    split_ifs at h with h0 hr h1 hr h2 h3
    · cases h; rw [h0, hr]; rfl
    · cases h; rw [h1, hr]; rfl
    · split at h
      · next idx =>
        split at h
        · cases h
        · next ch hch =>
          cases h
          rw [h2, ← chanIndex_of_chanOfIndex hch]
          rfl
      · cases h
    · rw [h3]
      exact decodeBlock_ok h

theorem decodeSystem_ok {bs : List Byte} {i : Instr} (h : decodeSystem bs = .ok i) :
    ⟨.sys, bs⟩ = frameOfKind (kindOf i) := by
  unfold decodeSystem at h
  split at h
  · next hb => cases h; rw [hb]; rfl
  · cases h

/-! ### Codes that name no register -/

/-- The access code comes before everything else in a frame (40_register_access.md R103). -/
theorem decode_of_regOfCode_none (cfg : Config) {code : Byte} (h : regOfCode code = none)
    (wc o0 o1 o2 o3 : Byte) (value : List Byte) :
    decode cfg ⟨.ra, code :: wc :: o0 :: o1 :: o2 :: o3 :: value⟩ = .error .noSuchRegister := by
  simp [decode, decodeAccess, h]

/-! ### The command field -/

/-- A narrow value's place in a wide one: `NARROW_WRITE_SHIFT` of 30_encoding.md R77. -/
def wideField (b : Byte) : Word := b.setWidth 32 <<< 16

theorem wideField_injective : Function.Injective wideField := by
  have back : Function.LeftInverse (BitVec.extractLsb' 16 8) wideField := by
    intro b
    apply BitVec.eq_of_getLsbD_eq
    intro i hi
    simp [wideField, hi, show 16 + i < 32 by omega]
  exact back.injective

theorem wideField_and (a b : Byte) : wideField (a &&& b) = wideField a &&& wideField b := by
  rw [wideField, BitVec.setWidth_and, BitVec.shiftLeft_and_distrib]
  rfl

/-- The mask of 30_encoding.md R78 is the five command bits of R73. -/
theorem commandMask_eq : (0x003B0000 : Word) = BitVec.twoPow 32 21 ||| BitVec.twoPow 32 20 |||
    BitVec.twoPow 32 19 ||| BitVec.twoPow 32 17 ||| BitVec.twoPow 32 16 := by decide

theorem and_commandMask (w : Word) : w &&& 0x003B0000 = bitAt 21 (w.getLsbD 21) ||| bitAt 20 (w.getLsbD 20) |||
    bitAt 19 (w.getLsbD 19) ||| bitAt 17 (w.getLsbD 17) ||| bitAt 16 (w.getLsbD 16) := by
  rw [commandMask_eq]
  simp only [BitVec.and_or_distrib_left, BitVec.and_twoPow]
  rfl

/-- The table of 30_encoding.md R79 and R80, row by row: a command's listed value has the bits it is named by. -/
theorem wideField_commandByte_commandOfBits : ∀ initbuf reset clrcomplete setsupdate setenable : Bool,
    wideField (commandByte (commandOfBits initbuf reset clrcomplete setsupdate setenable)) =
      bitAt 21 initbuf ||| bitAt 20 reset ||| bitAt 19 clrcomplete ||| bitAt 17 setsupdate |||
        bitAt 16 setenable := by decide

theorem commandByte_injective : Function.Injective commandByte := by
  have back : Function.LeftInverse (fun b => commandOf Layout.default (wideField b)) commandByte := by
    intro c
    cases c <;> rfl
  exact back.injective

theorem commandOf_default_iff (w : Word) (c : Command) :
    commandOf Layout.default w = c ↔ w &&& 0x003B0000 = wideField (commandByte c) := by
  have field : w &&& 0x003B0000 = wideField (commandByte (commandOf Layout.default w)) := by
    rw [and_commandMask, commandOf, wideField_commandByte_commandOfBits]
    rfl
  rw [field, wideField_injective.eq_iff, commandByte_injective.eq_iff]

/-! ### CSR reads -/

/-- A read at the register's own width of an offset that decodes (40_register_access.md R103). -/
theorem regRead_decoded (own : Width) {off : Word} (read : Channel → Reply) {s : State} {ch : Chan}
    (h : decodeChan s.cfg off = some ch) :
    regRead own own off read s = .next (s.answer (read (s.chan ch))) := by
  simp [regRead, h]

/-- A read at the register's own width of an offset that is no channel's (40_register_access.md R102). -/
theorem regRead_unknown (own : Width) {off : Word} (read : Channel → Reply) {s : State}
    (h : decodeChan s.cfg off = none) :
    regRead own own off read s = .next ((s.logMsg (.unknownChannel off)).answer (zeroReply own)) := by
  simp [regRead, h]

theorem exec_rdCsrWide {s : State} (hg : s.cfg.gen = .current) (off : Word) :
    exec (.rdCsrWide off) s = regRead .word .word off (fun c => .word (csrInt s.cfg.layout c)) s := by
  rw [exec_eq_execKind]
  simp only [kindOf, execKind, ownWidth, registerReply, csrWidth, hg]

theorem exec_rdCsrNarrow {s : State} (hg : s.cfg.gen = .legacy) (off : Word) :
    exec (.rdCsrNarrow off) s = regRead .byte .byte off (fun c => .byte (csrNarrow s.cfg c)) s := by
  rw [exec_eq_execKind]
  simp only [kindOf, execKind, ownWidth, registerReply, csrWidth, hg]

theorem bitAt_eq_shiftLeft (p : Nat) (f : Bool) : bitAt p f = (BitVec.ofBool f).setWidth 32 <<< p := by
  cases f
  · simp [bitAt]
  · rfl

/-- A bit of the narrow read (30_encoding.md R75; the OR is 90_conflicts.md C3). -/
theorem getLsbD_csrNarrow (cfg : Config) (c : Channel) {p : Nat} (hp : p < 8) :
    (csrNarrow cfg c).getLsbD p =
      ((decide (p + cfg.narrowStatusShift < 32) && csrBit cfg.layout c (p + cfg.narrowStatusShift)) ||
        (p == cfg.narrowDirBit && decide (c.dir = .d2m))) := by
  have status : (csrInt cfg.layout c).getLsbD (p + cfg.narrowStatusShift) =
      (decide (p + cfg.narrowStatusShift < 32) && csrBit cfg.layout c (p + cfg.narrowStatusShift)) := by
    by_cases hlt : p + cfg.narrowStatusShift < 32
    · rw [getLsbD_csrInt _ _ _ hlt, decide_eq_true hlt, Bool.true_and]
    · rw [BitVec.getLsbD_of_ge _ _ (by omega)]
      simp [hlt]
  have direction : (if isD2M c.dir then BitVec.twoPow 8 cfg.narrowDirBit else 0).getLsbD p =
      (p == cfg.narrowDirBit && decide (c.dir = .d2m)) := by
    cases c.dir with
    | m2d => simp [isD2M]
    | d2m =>
      rw [isD2M, if_pos rfl, BitVec.getLsbD_twoPow, Bool.eq_iff_iff]
      simp
      omega
  rw [csrNarrow, BitVec.getLsbD_or, BitVec.getLsbD_setWidth, BitVec.getLsbD_ushiftRight, direction,
    Nat.add_comm, status]
  simp [hp]

/-! ### The statements -/

/-- Settles O1, through the kind of the operation. -/
theorem decodeEncodeRoundTrip : Obligations.DecodeEncodeRoundTrip :=
  fun _ _ hw => decode_of_encode hw rfl

/-- Settles O2, format by format: each part of a frame is the code of what it was read as. -/
theorem frameHasOneMeaning : Obligations.FrameHasOneMeaning := by
  intro cfg f i h
  rw [encode_eq_frameOfKind]
  symm
  obtain ⟨format, bytes⟩ := f
  cases format with
  | ra => exact decodeAccess_ok h
  | csrwWide => exact decodeWide_ok h
  | csrwNarrow => exact decodeNarrow_ok h
  | dev => exact decodeDevice_ok h
  | sys => exact decodeSystem_ok h

/-- Settles O4: the masked value is the listed value of the command, and no two commands list the same. -/
theorem commandFieldMatchesExactly : Obligations.CommandFieldMatchesExactly := by
  refine ⟨commandOf_default_iff, fun cfg b c hl hs => ?_⟩
  have hv : csrWriteValue cfg (.narrow b) = wideField b := by rw [csrWriteValue, hs]; rfl
  have hmask : (0x003B0000 : Word) = wideField 0x3B := by decide
  rw [csrCommand, hl, hv, commandOf_default_iff, hmask, ← wideField_and, wideField_injective.eq_iff]

/-- Settles O12, by the bits of the packed fields. -/
theorem wideCsrReadBits : Obligations.WideCsrReadBits := by
  refine ⟨fun s off ch hg hd => ⟨csrInt s.cfg.layout (s.chan ch), ?reads, ?bits, ?packed⟩,
    fun s off hg hd => ?unknown, by decide⟩
  case reads => rw [exec_rdCsrWide hg, regRead_decoded _ _ hd]; rfl
  case bits => exact fun p hp => getLsbD_csrInt _ _ _ hp
  case packed =>
    intro hl
    have hdir : bitAt 18 (isD2M (s.chan ch).dir) = (if (s.chan ch).dir = .d2m then 1 else 0) <<< 18 := by
      cases (s.chan ch).dir <;> rfl
    rw [csrInt, hl, ← hdir]
    simp only [bitAt_eq_shiftLeft, Layout.default]
  case unknown => exact ⟨_, by rw [exec_rdCsrWide hg, regRead_unknown _ _ hd], rfl⟩

/-- Settles O13, by the bits of the shifted status and of the direction. -/
theorem narrowCsrReadBits : Obligations.NarrowCsrReadBits := by
  refine ⟨fun s off ch hg hd => ⟨csrNarrow s.cfg (s.chan ch), ?reads, ?bits, ?table⟩,
    fun s off hg hd => ?unknown, by decide⟩
  case reads => rw [exec_rdCsrNarrow hg, regRead_decoded _ _ hd]; rfl
  case bits => exact fun p hp => getLsbD_csrNarrow _ _ hp
  case table =>
    intro hl hs hb
    have bit {p : Nat} (hp : p < 8) : (csrNarrow s.cfg (s.chan ch)).getLsbD p =
        ((decide (p + 24 < 32) && csrBit Layout.default (s.chan ch) (p + 24)) ||
          (p == 3 && decide ((s.chan ch).dir = .d2m))) := by
      rw [getLsbD_csrNarrow _ _ hp, hl, hs, hb]
    rw [bit, bit, bit, bit, bit, bit, bit, bit] <;> simp [csrBit, Layout.default]
  case unknown => exact ⟨_, by rw [exec_rdCsrNarrow hg, regRead_unknown _ _ hd], rfl⟩

/-- Settles O3: the six frames are those of their operations, and a frame of a well-formed operation decodes
to it. -/
theorem sampleWordsDecode : Obligations.SampleWordsDecode := by
  refine ⟨?_, ?_, ?_, ?_, ?_, ?_⟩ <;> exact decode_of_encode (by decide) (by decide)

/-- Settles O5: none of the ten codes has a register. -/
theorem codesThatNameNoRegister : Obligations.CodesThatNameNoRegister := by
  intro s code wc o0 o1 o2 o3 value feed oracle rest hcode hp
  have hnone : ∀ c ∈ ([0b01000, 0b01001, 0b10000, 0b10001, 0b11000, 0b11001, 0b10110, 0b10111, 0b11110,
      0b11111] : List Byte), regOfCode c = none := by decide
  exact step_of_decode_error hp (decode_of_regOfCode_none s.cfg (hnone code hcode) wc o0 o1 o2 o3 value)

end Sys2Proof.Machine

/-! PROOF. The register access (40_register_access.md R100 to R126): which offset decodes to which channel, what
a read, a write and a command row answer by their kind, and at which widths they answer at all. -/

namespace Sys2Proof.Machine

open Sys2Proof.Laws

/-! ### The offset decoder -/

/-- The offset of a decoded channel is the one that was looked up. -/
theorem chanOff_of_decodeChan {cfg : Config} {off : Word} {ch : Chan} (h : decodeChan cfg off = some ch) :
    cfg.chanOff.get ch = off := by
  simpa using List.find?_some h

/-- The decoder answers `Unknown` exactly where the offset is no channel's (40_register_access.md R100). -/
theorem decodeChan_eq_none_iff {cfg : Config} {off : Word} :
    decodeChan cfg off = none ↔ ∀ ch, cfg.chanOff.get ch ≠ off := by
  rw [decodeChan, List.find?_eq_none]
  exact ⟨fun h ch he => h ch (Chan.mem_all ch) (beq_iff_eq.2 he), fun h ch _ he => h ch (beq_iff_eq.1 he)⟩

theorem chanOff_injective {cfg : Config} (hw : cfg.Wf) : Function.Injective cfg.chanOff.get := by
  obtain ⟨-, hoffsets, -⟩ := hw
  exact fun a b hab => List.inj_on_of_nodup_map hoffsets (Chan.mem_all a) (Chan.mem_all b) hab

/-- The search order plays no part: with distinct offsets, what is found at a channel's offset is that
channel. -/
theorem decodeChan_chanOff {cfg : Config} (hw : cfg.Wf) (ch : Chan) :
    decodeChan cfg (cfg.chanOff.get ch) = some ch := by
  cases hd : decodeChan cfg (cfg.chanOff.get ch) with
  | none => exact absurd rfl (decodeChan_eq_none_iff.1 hd ch)
  | some found => rw [chanOff_injective hw (chanOff_of_decodeChan hd)]

/-! ### Reads -/

theorem ownWidth_of_ne_csr (cfg : Config) {r : Reg} (hr : r ≠ .csr) : ownWidth cfg r = .word := by
  cases r with
  | csr => exact absurd rfl hr
  | _ => rfl

theorem exec_read {i : Instr} {r : Reg} {off : Word} {width : Width} (hk : kindOf i = .read r off width)
    (s : State) :
    exec i s = regRead (ownWidth s.cfg r) width off (fun c => registerReply s.cfg c r) s := by
  rw [exec_eq_execKind, hk]
  rfl

theorem exec_read_decoded {i : Instr} {r : Reg} {off : Word} {s : State} {ch : Chan}
    (hk : kindOf i = .read r off (ownWidth s.cfg r)) (hd : decodeChan s.cfg off = some ch) :
    exec i s = .next (s.answer (registerReply s.cfg (s.chan ch) r)) := by
  rw [exec_read hk, regRead_decoded _ _ hd]

theorem exec_read_unknown {i : Instr} {r : Reg} {off : Word} {s : State}
    (hk : kindOf i = .read r off (ownWidth s.cfg r)) (hd : decodeChan s.cfg off = none) :
    exec i s = .next ((s.logMsg (.unknownChannel off)).answer (zeroReply (ownWidth s.cfg r))) := by
  rw [exec_read hk, regRead_unknown _ _ hd]

theorem exec_read_of_width_ne {i : Instr} {r : Reg} {off : Word} {width : Width} {s : State}
    (hk : kindOf i = .read r off width) (hw : width ≠ ownWidth s.cfg r) : exec i s = .refused .width := by
  rw [exec_read hk, regRead, if_neg hw]

/-- A read answers with the state it was made on, but for the reply and, at an unknown offset, the log. -/
theorem exec_read_next {i : Instr} {r : Reg} {off : Word} {width : Width} {s t : State}
    (hk : kindOf i = .read r off width) (h : exec i s = .next t) :
    ∃ m, t = s.answer m ∨ t = (s.logMsg (.unknownChannel off)).answer m := by
  rw [exec_read hk] at h
  obtain ⟨-, ⟨-, rfl⟩ | ⟨ch, -, rfl⟩⟩ := regRead_next h
  · exact ⟨_, .inr rfl⟩
  · exact ⟨_, .inl rfl⟩

/-! ### Writes -/

/-- The encodings of a CSR value keep its width; one of 16 bits has none. -/
theorem csrValueWidth_of_csrValueOf {v : BusValue} {cv : CsrValue} (h : csrValueOf v = some cv) :
    csrValueWidth cv = v.width := by
  cases v <;> cases h <;> rfl

theorem csrValueOf_of_width_eq {v : BusValue} {g : Gen} (h : v.width = csrWidth g) :
    ∃ cv, csrValueOf v = some cv := by
  cases v with
  | byte b => exact ⟨.narrow b, rfl⟩
  | half x => cases g <;> cases h
  | word w => exact ⟨.wide w, rfl⟩

theorem execWrCsr_unknown {off : Word} {v : BusValue} {s : State} (hw : v.width = csrWidth s.cfg.gen)
    (hd : decodeChan s.cfg off = none) :
    execWrCsr off v s = .next ((s.logMsg (.unknownChannel off)).answer .none) := by
  obtain ⟨cv, hv⟩ := csrValueOf_of_width_eq hw
  simp [execWrCsr, hv, csrValueWidth_of_csrValueOf hv, hw, hd]

/-- The width check of `WR.CSR` comes before its offset decoder (40_register_access.md R103). -/
theorem execWrCsr_of_width_ne {off : Word} {v : BusValue} {s : State} (hw : v.width ≠ csrWidth s.cfg.gen) :
    execWrCsr off v s = .refused .width := by
  cases hv : csrValueOf v with
  | none => simp [execWrCsr, hv]
  | some cv => simp [execWrCsr, hv, csrValueWidth_of_csrValueOf hv, hw]

theorem regWrite_decoded {off w : Word} (store : Word → Channel → Channel) {s : State} {ch : Chan}
    (hd : decodeChan s.cfg off = some ch) :
    regWrite off (.word w) store s = .next ((s.modChan ch (store w)).answer .none) := by
  simp [regWrite, hd]

theorem regWrite_unknown {off w : Word} (store : Word → Channel → Channel) {s : State}
    (hd : decodeChan s.cfg off = none) :
    regWrite off (.word w) store s = .next ((s.logMsg (.unknownChannel off)).answer .none) := by
  simp [regWrite, hd]

theorem regWrite_of_width_ne {off : Word} {v : BusValue} (store : Word → Channel → Channel) {s : State}
    (hw : v.width ≠ .word) : regWrite off v store s = .refused .width := by
  cases v with
  | word w => exact absurd rfl hw
  | byte b => rfl
  | half x => rfl

theorem exec_store {i : Instr} {r : Reg} {off : Word} {v : BusValue} (hk : kindOf i = .store r off v)
    (s : State) : exec i s = execStore r off v s := by
  rw [exec_eq_execKind, hk]
  rfl

/-- Every register but the CSR is written by a plain store (40_register_access.md R107 to R125). -/
theorem execStore_of_ne_csr {r : Reg} (hr : r ≠ .csr) (off : Word) (v : BusValue) (s : State) :
    execStore r off v s = regWrite off v (fun w c => storeRegister w c r) s := by
  cases r with
  | csr => exact absurd rfl hr
  | _ => rfl

theorem exec_store_decoded {i : Instr} {r : Reg} {off w : Word} {s : State} {ch : Chan}
    (hk : kindOf i = .store r off (.word w)) (hr : r ≠ .csr) (hd : decodeChan s.cfg off = some ch) :
    exec i s = .next ((s.modChan ch fun c => storeRegister w c r).answer .none) := by
  rw [exec_store hk, execStore_of_ne_csr hr, regWrite_decoded _ hd]

theorem exec_store_unknown {i : Instr} {r : Reg} {off : Word} {v : BusValue} {s : State}
    (hk : kindOf i = .store r off v) (hw : v.width = ownWidth s.cfg r) (hd : decodeChan s.cfg off = none) :
    exec i s = .next ((s.logMsg (.unknownChannel off)).answer .none) := by
  rw [exec_store hk]
  by_cases hr : r = .csr
  · subst hr
    exact execWrCsr_unknown hw hd
  · rw [ownWidth_of_ne_csr _ hr] at hw
    rw [execStore_of_ne_csr hr]
    cases v with
    | word w => exact regWrite_unknown _ hd
    | byte b => cases hw
    | half x => cases hw

theorem exec_store_of_width_ne {i : Instr} {r : Reg} {off : Word} {v : BusValue} {s : State}
    (hk : kindOf i = .store r off v) (hw : v.width ≠ ownWidth s.cfg r) : exec i s = .refused .width := by
  rw [exec_store hk]
  by_cases hr : r = .csr
  · subst hr
    exact execWrCsr_of_width_ne hw
  · rw [ownWidth_of_ne_csr _ hr] at hw
    rw [execStore_of_ne_csr hr, regWrite_of_width_ne _ hw]

/-- A plain register reads back what was stored in it. -/
theorem registerReply_storeRegister (cfg : Config) (w : Word) (c : Channel) {r : Reg} (hr : r ≠ .csr) :
    registerReply cfg (storeRegister w c r) r = .word w := by
  cases r with
  | csr => exact absurd rfl hr
  | _ => rfl

/-! ### Command rows -/

theorem exec_command {i : Instr} {c : Command} {ch : Chan} {v : CsrValue} (hk : kindOf i = .command c ch v)
    (s : State) : exec i s = csrWrite ch v (commandEffect c ch) s := by
  rw [exec_eq_execKind, hk]
  rfl

theorem csrWrite_of_width_ne {v : CsrValue} {s : State} (hw : csrValueWidth v ≠ csrWidth s.cfg.gen)
    (ch : Chan) (effect : State → Result) : csrWrite ch v effect s = .refused .width := by
  rw [csrWrite, if_neg hw]

/-! ### The statements -/

/-- Settles O6: distinct offsets make the search exact, and an access it answers `Unknown` for is logged. -/
theorem offsetsDecodeToChannels : Obligations.OffsetsDecodeToChannels := by
  refine ⟨fun cfg hw => ⟨decodeChan_chanOff hw, fun off => decodeChan_eq_none_iff.2⟩, by decide,
    fun s off hd => ?logged⟩
  case logged => exact exec_read_unknown (r := .next) rfl hd

/-- Settles O9: a read's answer is the state before it but for the reply and the log, and the read after a
store meets the same configuration, so the same channel. -/
theorem readsChangeNothing : Obligations.ReadsChangeNothing := by
  refine ⟨fun i r off width s t hk h => ?frame, fun i j r off v ch s hi hj hr hd => ?readsBack⟩
  case frame => obtain ⟨m, rfl | rfl⟩ := exec_read_next hk h <;> exact ⟨rfl, fun _ => rfl⟩
  case readsBack =>
    refine ⟨_, _, exec_store_decoded hi hr hd, exec_read_decoded (r := r) ?own hd, ?value⟩
    case own => rw [hj, ownWidth_of_ne_csr _ hr]
    case value => simp [registerReply_storeRegister _ _ _ hr]

/-- Settles O10: the logged state with a reply is what both a read and a write answer. -/
theorem unknownOffsetIsNoOp : Obligations.UnknownOffsetIsNoOp := by
  refine ⟨fun i r off s hk hd => ⟨_, exec_read_unknown hk hd, rfl, rfl, ?word, ?byte⟩,
    fun i r off v s hk hw hd => ⟨_, exec_store_unknown hk hw hd, rfl, rfl⟩⟩
  case word => intro hw; rw [hw]; rfl
  case byte => intro hw; rw [hw]; rfl

/-- Settles O11: each kind of access checks its width before anything else. -/
theorem wrongWidthIsRefused : Obligations.WrongWidthIsRefused := by
  refine ⟨fun i r off width s hk hw => ?read, fun i r off v s hk hw => ?store,
    fun i c ch v s hk hw => ?command⟩
  case read => exact exec_read_of_width_ne hk hw
  case store => exact exec_store_of_width_ne hk hw
  case command => rw [exec_command hk, csrWrite_of_width_ne hw]

/-- Settles O7, register by register: the reply is `registerReply`'s entry, and 0 where no channel is. -/
theorem registerReadsReturnTheRegister : Obligations.RegisterReadsReturnTheRegister := by
  refine ⟨fun s off ch hd => ?decoded, fun s off hd => ?unknown⟩
  case decoded =>
    have reads {i : Instr} (r : Reg) (hk : kindOf i = .read r off (ownWidth s.cfg r)) :
        exec i s = .next (s.answer (registerReply s.cfg (s.chan ch) r)) := exec_read_decoded hk hd
    exact ⟨⟨rfl, reads .savedNext rfl⟩, ⟨rfl, reads .savedLimit rfl⟩, ⟨rfl, reads .savedStart rfl⟩,
      ⟨rfl, reads .savedStop rfl⟩, ⟨rfl, reads .next rfl⟩, ⟨rfl, reads .limit rfl⟩,
      ⟨rfl, reads .start rfl⟩, ⟨rfl, reads .stop rfl⟩, ⟨rfl, reads .init rfl⟩, ⟨rfl, reads .size rfl⟩⟩
  case unknown =>
    have zero {i : Instr} (r : Reg) (hk : kindOf i = .read r off (ownWidth s.cfg r)) :
        exec i s = .next ((s.logMsg (.unknownChannel off)).answer (zeroReply (ownWidth s.cfg r))) :=
      exec_read_unknown hk hd
    exact ⟨zero .savedNext rfl, zero .savedLimit rfl, zero .savedStart rfl, zero .savedStop rfl,
      zero .next rfl, zero .limit rfl, zero .start rfl, zero .stop rfl, zero .init rfl, zero .size rfl⟩

/-- Settles O8, register by register: the channel stored is `storeRegister`'s, and none where no channel
is. -/
theorem registerWritesStoreTheValue : Obligations.RegisterWritesStoreTheValue := by
  refine ⟨fun s off v ch hd => ?decoded, fun s off v hd => ?unknown⟩
  case decoded =>
    have stores {i : Instr} (r : Reg) (hk : kindOf i = .store r off (.word v)) (hr : r ≠ .csr) :
        exec i s = .next ((s.modChan ch fun c => storeRegister v c r).answer .none) :=
      exec_store_decoded hk hr hd
    exact ⟨⟨rfl, stores .savedNext rfl nofun⟩, ⟨rfl, stores .savedLimit rfl nofun⟩,
      ⟨rfl, stores .savedStart rfl nofun⟩, ⟨rfl, stores .savedStop rfl nofun⟩,
      ⟨rfl, stores .next rfl nofun⟩, ⟨rfl, stores .limit rfl nofun⟩, ⟨rfl, stores .start rfl nofun⟩,
      ⟨rfl, stores .stop rfl nofun⟩, ⟨rfl, stores .init rfl nofun⟩, ⟨rfl, stores .size rfl nofun⟩⟩
  case unknown =>
    have discarded {i : Instr} (r : Reg) (hk : kindOf i = .store r off (.word v))
        (hw : ownWidth s.cfg r = .word) :
        exec i s = .next ((s.logMsg (.unknownChannel off)).answer .none) :=
      exec_store_unknown hk hw.symm hd
    exact ⟨discarded .savedNext rfl rfl, discarded .savedLimit rfl rfl, discarded .savedStart rfl rfl,
      discarded .savedStop rfl rfl, discarded .next rfl rfl, discarded .limit rfl rfl,
      discarded .start rfl rfl, discarded .stop rfl rfl, discarded .init rfl rfl, discarded .size rfl rfl⟩

end Sys2Proof.Machine

/-! PROOF. The CSR write and its commands (41_csr_commands.md R130 to R144): what every CSR write to a decoded
channel keeps and ends with, what each command leaves, and which writes answer a next state. -/

namespace Sys2Proof.Machine

/-! ### From an operation to the effect of its command -/

/-- A CSR write at the CSR's width answers what its command's effect does, with the line released. -/
theorem exec_csrWriteOf_next {i : Instr} {c : Command} {ch : Chan} {v : CsrValue} {s u : State}
    (hw : csrWriteOf s.cfg i = some (c, ch, v)) (hwidth : csrValueWidth v = csrWidth s.cfg.gen)
    (hu : commandEffect c ch (storeDir ch (csrWriteValue s.cfg v) (s.answer .none)) = .next u) :
    exec i s = .next (u.irqRelease ch) := by
  rw [exec_csrWriteOf hw, csrWrite_of_next hwidth hu]

/-- A refused effect refuses the whole write (41_csr_commands.md R130). -/
theorem exec_csrWriteOf_refused {i : Instr} {c : Command} {ch : Chan} {v : CsrValue} {s : State} {r : Refusal}
    (hw : csrWriteOf s.cfg i = some (c, ch, v)) (hwidth : csrValueWidth v = csrWidth s.cfg.gen)
    (hr : commandEffect c ch (storeDir ch (csrWriteValue s.cfg v) (s.answer .none)) = .refused r) :
    exec i s = .refused r := by
  simp [exec_csrWriteOf hw, csrWrite, hwidth, hr]

/-- What a CSR write that answers a next state has run. -/
theorem csrWriteOf_next_inv {i : Instr} {c : Command} {ch : Chan} {v : CsrValue} {s t : State}
    (hw : csrWriteOf s.cfg i = some (c, ch, v)) (h : exec i s = .next t) :
    ∃ u, commandEffect c ch (storeDir ch (csrWriteValue s.cfg v) (s.answer .none)) = .next u ∧
      t = u.irqRelease ch := by
  rw [exec_csrWriteOf hw] at h
  exact (csrWrite_next h).2

/-- The command's effect starts from the configuration of the write, and keeps it. -/
theorem csrEffect_cfg {c : Command} {ch : Chan} {w : Word} {s u : State}
    (hu : commandEffect c ch (storeDir ch w (s.answer .none)) = .next u) : u.cfg = s.cfg := by
  rw [(commandEffect_sameSetting hu).1, cfg_storeDir, State.cfg_answer]

theorem csrWriteOf_wrCsr {cfg : Config} {off : Word} {ch : Chan} (hd : decodeChan cfg off = some ch)
    {v : BusValue} {cv : CsrValue} (hv : csrValueOf v = some cv) :
    csrWriteOf cfg (.wrCsr off v) = some (csrCommand cfg cv, ch, cv) := by
  simp [csrWriteOf, kindOf, hv, hd]

theorem csrWriteOf_wideInstr (cfg : Config) (c : Command) (ch : Chan) (v : Word) :
    csrWriteOf cfg (wideInstr c ch v) = some (c, ch, .wide v) := by
  simp [csrWriteOf]

theorem csrWriteOf_narrowInstr (cfg : Config) (c : Command) (ch : Chan) (b : Byte) :
    csrWriteOf cfg (narrowInstr c ch b) = some (c, ch, .narrow b) := by
  simp [csrWriteOf]

/-- The line of another channel keeps its level at a release. -/
theorem sameOtherLines_irqRelease (s : State) (ch : Chan) : SameOtherLines ch s (s.irqRelease ch) := by
  intro l hl
  rw [State.level_irqRelease, if_neg hl]

/-! ### What a commit pass keeps -/

/-- A pass raises lines and lowers none (42_burst_engine.md R167, R171). -/
theorem commitPass_level_high {s t : State} {l : IrqLine} (h : commitPass s = .next t)
    (hl : s.level l = true) : t.level l = true :=
  commitPass_invariant (fun u => u.level l = true) (fun _ _ hu => hu) (fun _ hu => hu)
    (fun _ _ _ _ hu => hu) (fun _ _ hu => hu) (fun _ hu => hu)
    (fun _ hu => by rw [level_atLimit]; split <;> simp [hu])
    (fun _ hu => by rw [level_faultTransition]; split <;> simp [hu]) hl h

theorem commitPass_dir {s t : State} (h : commitPass s = .next t) :
    (t.chan .storage).dir = (s.chan .storage).dir :=
  commitPass_invariant (fun u => (u.chan .storage).dir = (s.chan .storage).dir) (fun _ _ hu => hu)
    (fun _ hu => hu) (fun _ _ _ _ hu => hu) (fun _ _ hu => hu)
    (fun _ hu => by rw [chan_burstDone_same]; exact hu)
    (fun _ hu => by rw [chan_atLimit_same]; split <;> exact hu)
    (fun _ hu => by rw [chan_faultTransition_same]; exact hu) rfl h

/-- The engine is the storage channel's (42_burst_engine.md R160). -/
theorem commitPass_sameOtherChannels {s t : State} (h : commitPass s = .next t) :
    SameOtherChannels .storage s t :=
  commitPass_invariant (SameOtherChannels .storage s) (fun _ _ hu => hu) (fun _ hu => hu)
    (fun _ _ _ _ hu => hu) (fun _ _ hu => hu)
    (fun _ hu k hk => (chan_burstDone_ne _ hk).trans (hu k hk))
    (fun _ hu k hk => (chan_atLimit_ne _ hk).trans (hu k hk))
    (fun _ hu k hk => (chan_faultTransition_ne _ hk).trans (hu k hk)) (fun _ _ => rfl) h

/-! ### What the effect of a command keeps -/

theorem commandEffect_level_high {c : Command} {ch : Chan} {s t : State} {l : IrqLine}
    (h : commandEffect c ch s = .next t) (hl : s.level l = true) : t.level l = true := by
  rcases commandEffect_next h with ⟨m, rfl⟩ | ⟨f, -, rfl | ⟨-, rfl⟩ | ⟨-, hp⟩⟩
  · exact hl
  · exact hl
  · rw [level_doInitBuf]; exact hl
  · rcases passOnStorage_next hp with ⟨-, hc⟩ | ⟨-, rfl⟩
    · exact commitPass_level_high (s := s.modChan ch f) hc hl
    · exact hl

theorem commandEffect_sameOtherChannels {c : Command} {ch : Chan} {s t : State}
    (h : commandEffect c ch s = .next t) : SameOtherChannels ch s t := by
  intro k hk
  rcases commandEffect_next h with ⟨m, rfl⟩ | ⟨f, -, rfl | ⟨-, rfl⟩ | ⟨-, hp⟩⟩
  · rfl
  · exact State.chan_modChan_ne s f hk
  · rw [chan_doInitBuf, State.chan_modChan_ne s f hk]
  · rcases passOnStorage_next hp with ⟨rfl, hc⟩ | ⟨-, rfl⟩
    · rw [commitPass_sameOtherChannels hc k hk, State.chan_modChan_ne s f hk]
    · exact State.chan_modChan_ne s f hk

theorem passOnStorage_dir {ch : Chan} {s t : State} (h : passOnStorage ch s = .next t) :
    (t.chan ch).dir = (s.chan ch).dir := by
  rcases passOnStorage_next h with ⟨rfl, hc⟩ | ⟨-, rfl⟩
  · exact commitPass_dir hc
  · rfl

/-- Of the commands only the two resets touch direction (41_csr_commands.md R131, R133, R135). -/
theorem commandEffect_dir {c : Command} {ch : Chan} {s t : State} (h : commandEffect c ch s = .next t) :
    (t.chan ch).dir = if c = .reset ∨ c = .resetInitbuf then .m2d else (s.chan ch).dir := by
  rcases commandEffect_cases c ch s with ⟨rfl, e⟩ | ⟨rfl, e⟩ | ⟨rfl, e⟩ | ⟨rfl, e⟩ | ⟨rfl, e⟩ | ⟨rfl, e⟩ |
    ⟨rfl, e⟩ | ⟨rfl, e⟩ | ⟨⟨hreset, -, hboth, -⟩, e⟩ <;> rw [e] at h
  · cases h; simp [resetFields]
  · cases h; simp
  · cases h; simp [resetFields]
  · simp [passOnStorage_dir h]
  · simp [passOnStorage_dir h]
  · cases h; simp
  · cases h; simp
  · cases h; simp
  · cases h; simp [hreset, hboth]

/-! ### Commands that run no pass -/

/-- The write runs no commit pass (41_csr_commands.md R136, R137). -/
def RunsNoPass (c : Command) (ch : Chan) : Prop :=
  ch = .storage → c ≠ .clrcomplete ∧ c ≠ .setsupdateClrcomplete

/-- What a CSR write without a pass can change is its channel, its line and the staging buffer; the calls and
the reply are the write's own record. -/
def ConfinedTo (ch : Chan) (s t : State) : Prop :=
  SameOtherChannels ch s t ∧ SameOtherLines ch s t ∧ SameMemory s t ∧ SameInputs s t ∧ SameSetting s t

theorem ConfinedTo.onlyChannel {ch : Chan} {s t : State} (h : ConfinedTo ch s t)
    (hs : t.staging = s.staging) : OnlyChannel ch s t := by
  obtain ⟨hchans, hlines, hmem, hinputs, hsetting⟩ := h
  exact ⟨hchans, hlines, hs, hmem, hinputs, hsetting⟩

theorem ConfinedTo.trans {ch : Chan} {s t u : State} (h₁ : ConfinedTo ch s t) (h₂ : ConfinedTo ch t u) :
    ConfinedTo ch s u := by
  obtain ⟨hchans₁, hlines₁, hmem₁, ⟨hready₁, horacle₁, hdraws₁⟩, hsetting₁⟩ := h₁
  obtain ⟨hchans₂, hlines₂, hmem₂, ⟨hready₂, horacle₂, hdraws₂⟩, hsetting₂⟩ := h₂
  refine ⟨fun k hk => (hchans₂ k hk).trans (hchans₁ k hk), fun l hl => ?_,
    fun a => (hmem₂ a).trans (hmem₁ a),
    ⟨hready₂.trans hready₁, horacle₂.trans horacle₁, hdraws₂.trans hdraws₁⟩, hsetting₁.trans hsetting₂⟩
  exact (hlines₂ l (by rwa [hsetting₁.1])).trans (hlines₁ l hl)

theorem confinedTo_modChan (s : State) (ch : Chan) (f : Channel → Channel) :
    ConfinedTo ch s (s.modChan ch f) :=
  ⟨fun _ hk => State.chan_modChan_ne s f hk, fun _ _ => rfl, fun _ => rfl, ⟨rfl, rfl, rfl⟩, rfl, rfl⟩

theorem confinedTo_storeDir (s : State) (ch : Chan) (w : Word) :
    ConfinedTo ch s (storeDir ch w (s.answer .none)) :=
  ⟨fun _ hk => chan_storeDir_ne _ ch w hk, fun _ _ => level_storeDir _ _ _ _, fun _ => by simp,
    by simp [SameInputs], by simp [SameSetting]⟩

theorem confinedTo_logMsg (s : State) (ch : Chan) (m : LogMsg) : ConfinedTo ch s (s.logMsg m) :=
  ⟨fun _ _ => rfl, fun _ _ => rfl, fun _ => rfl, ⟨rfl, rfl, rfl⟩, rfl, rfl⟩

theorem confinedTo_doInitBuf (s : State) (ch : Chan) : ConfinedTo ch s (doInitBuf ch s) :=
  ⟨fun k _ => chan_doInitBuf s ch k, fun l _ => level_doInitBuf s ch l, fun _ => by simp,
    by simp [SameInputs], by simp [SameSetting]⟩

theorem confinedTo_irqRelease (s : State) (ch : Chan) : ConfinedTo ch s (s.irqRelease ch) :=
  ⟨fun k _ => State.chan_irqRelease s ch k, sameOtherLines_irqRelease s ch, fun _ => by simp,
    by simp [SameInputs], by simp [SameSetting]⟩

theorem commandEffect_confinedTo {c : Command} {ch : Chan} {s t : State}
    (h : commandEffect c ch s = .next t) (hpass : RunsNoPass c ch) : ConfinedTo ch s t := by
  rcases commandEffect_next h with ⟨m, rfl⟩ | ⟨f, -, rfl | ⟨-, rfl⟩ | ⟨hc, hp⟩⟩
  · exact confinedTo_logMsg s ch m
  · exact confinedTo_modChan s ch f
  · exact (confinedTo_modChan s ch f).trans (confinedTo_doInitBuf _ ch)
  · rcases passOnStorage_next hp with ⟨e, -⟩ | ⟨-, rfl⟩
    · exact (hc.elim (hpass e).1 (hpass e).2).elim
    · exact confinedTo_modChan s ch f

/-- Every CSR write without a pass: the channel, the staging buffer and the calls are its command's, the line
is released, and nothing else changes. -/
theorem exec_plainCommand {i : Instr} {c : Command} {ch : Chan} {v : CsrValue} {s u : State}
    (hw : csrWriteOf s.cfg i = some (c, ch, v)) (hwidth : csrValueWidth v = csrWidth s.cfg.gen)
    (hu : commandEffect c ch (storeDir ch (csrWriteValue s.cfg v) (s.answer .none)) = .next u)
    (hpass : RunsNoPass c ch) :
    ∃ t, exec i s = .next t ∧ t.chan ch = u.chan ch ∧ t.staging = u.staging ∧
      t.calls = releaseCalls s.cfg ch ++ u.calls ∧ LineAt ch false t ∧ ConfinedTo ch s t :=
  ⟨u.irqRelease ch, exec_csrWriteOf_next hw hwidth hu, State.chan_irqRelease u ch ch,
    State.staging_irqRelease u ch, by rw [calls_irqRelease, csrEffect_cfg hu], lineAt_irqRelease u ch,
    ((confinedTo_storeDir s ch _).trans (commandEffect_confinedTo hu hpass)).trans
      (confinedTo_irqRelease u ch)⟩

/-- A command that only changes fields of its channel, on a channel where it runs no pass. -/
theorem exec_fieldCommand {i : Instr} {c : Command} {ch : Chan} {v : CsrValue} {s : State}
    (hw : csrWriteOf s.cfg i = some (c, ch, v)) (hwidth : csrValueWidth v = csrWidth s.cfg.gen)
    (f : Channel → Channel) (hf : ∀ u, commandEffect c ch u = .next (u.modChan ch f))
    (hpass : RunsNoPass c ch) :
    ∃ t, exec i s = .next t ∧ t.chan ch = f { s.chan ch with dir := dirAfter s.cfg v (s.chan ch).dir } ∧
      OnlyChannel ch s t ∧ LineAt ch false t ∧ t.calls = releaseCalls s.cfg ch ++ s.calls := by
  obtain ⟨t, ht, hchan, hstaging, hcalls, hline, hframe⟩ := exec_plainCommand hw hwidth (hf _) hpass
  refine ⟨t, ht, ?_, hframe.onlyChannel ?_, hline, ?_⟩
  · rw [hchan, State.chan_modChan_same, chan_storeDir_dirAfter]
  · rw [hstaging, State.staging_modChan, staging_storeDir, State.staging_answer]
  · rw [hcalls, State.calls_modChan, calls_storeDir, State.calls_answer]

/-- A command that ends by emptying the buffers, after a change to fields of its channel. -/
theorem exec_initBufCommand {i : Instr} {c : Command} {ch : Chan} {v : CsrValue} {s : State}
    (hw : csrWriteOf s.cfg i = some (c, ch, v)) (hwidth : csrValueWidth v = csrWidth s.cfg.gen)
    (f : Channel → Channel) (hf : ∀ u, commandEffect c ch u = .next (doInitBuf ch (u.modChan ch f)))
    (hpass : RunsNoPass c ch) :
    ∃ t, exec i s = .next t ∧ t.chan ch = f { s.chan ch with dir := dirAfter s.cfg v (s.chan ch).dir } ∧
      t.staging = (if ch = .storage then { s.staging with count := 0 } else s.staging) ∧
      t.calls = releaseCalls s.cfg ch ++ .devInitBuffers ch :: s.calls ∧ LineAt ch false t ∧
      ConfinedTo ch s t := by
  obtain ⟨t, ht, hchan, hstaging, hcalls, hline, hframe⟩ := exec_plainCommand hw hwidth (hf _) hpass
  refine ⟨t, ht, ?_, ?_, ?_, hline, hframe⟩
  · rw [hchan, chan_doInitBuf, State.chan_modChan_same, chan_storeDir_dirAfter]
  · simp [hstaging]
  · simp [hcalls]

/-- A combination outside the table is logged and nothing else (41_csr_commands.md R141). -/
theorem commandEffect_of_not_recognised {c : Command} (h : recognised c = false) (ch : Chan) (s : State) :
    commandEffect c ch s = .next (s.logMsg (.badCommand c)) := by
  cases c with
  | reset | initbuf | resetInitbuf | clrcomplete | setsupdateClrcomplete | setenable
  | setenableSetsupdate | noCommand => exact absurd h (by decide)
  | _ => rfl

theorem commandEffect_without_effect {c : Command} (h : c = .noCommand ∨ recognised c = false) (ch : Chan)
    (s : State) :
    commandEffect c ch s = .next (s.logMsg (if c = .noCommand then .noCommand else .badCommand c)) := by
  by_cases hc : c = .noCommand
  · subst hc
    rfl
  · rw [if_neg hc]
    exact commandEffect_of_not_recognised (h.resolve_left hc) ch s

theorem passOnStorage_of_ne {ch : Chan} (h : ch ≠ .storage) (s : State) : passOnStorage ch s = .next s :=
  if_neg h

/-- A command without a pass has an effect in every state. -/
theorem exists_commandEffect_of_runsNoPass {c : Command} {ch : Chan} (hpass : RunsNoPass c ch) (s : State) :
    ∃ u, commandEffect c ch s = .next u := by
  have noPass (hc : c = .clrcomplete ∨ c = .setsupdateClrcomplete) : ch ≠ .storage :=
    fun e => hc.elim (hpass e).1 (hpass e).2
  rcases commandEffect_cases c ch s with ⟨-, e⟩ | ⟨-, e⟩ | ⟨-, e⟩ | ⟨hc, e⟩ | ⟨hc, e⟩ | ⟨-, e⟩ | ⟨-, e⟩ |
    ⟨-, e⟩ | ⟨-, e⟩ <;> rw [e]
  · exact ⟨_, rfl⟩
  · exact ⟨_, rfl⟩
  · exact ⟨_, rfl⟩
  · exact ⟨_, passOnStorage_of_ne (noPass (.inl hc)) _⟩
  · exact ⟨_, passOnStorage_of_ne (noPass (.inr hc)) _⟩
  · exact ⟨_, rfl⟩
  · exact ⟨_, rfl⟩
  · exact ⟨_, rfl⟩
  · exact ⟨_, rfl⟩

/-! ### Commands that run a pass -/

theorem perChan_set_set {α : Type} (p : PerChan α) (ch : Chan) (v w : α) :
    (p.set ch v).set ch w = p.set ch w := by
  cases ch <;> rfl

theorem State.modChan_modChan (s : State) (ch : Chan) (f g : Channel → Channel) :
    (s.modChan ch f).modChan ch g = s.modChan ch (g ∘ f) := by
  simp [State.modChan, State.setChan, State.chan, perChan_set_set]

/-- The direction store as a change of the channel (41_csr_commands.md R131). -/
theorem storeDir_csrWriteValue (ch : Chan) (v : CsrValue) (s : State) :
    storeDir ch (csrWriteValue s.cfg v) (s.answer .none) =
      (s.modChan ch fun c => { c with dir := dirAfter s.cfg v c.dir }).answer .none := by
  unfold storeDir dirAfter
  rw [State.cfg_answer, dirBit]
  split
  · rfl
  · exact (congrArg (State.answer · .none) (State.modChan_id s ch)).symm

/-- A command with a pass on `storage` answers what the device's own call answers from the state that the
command leaves before it, with the line then released (41_csr_commands.md R136, R137). -/
theorem exec_passCommand {i : Instr} {c : Command} {v : CsrValue} {s p : State}
    (hw : csrWriteOf s.cfg i = some (c, .storage, v)) (hwidth : csrValueWidth v = csrWidth s.cfg.gen)
    (f : Channel → Channel) (hf : ∀ u, commandEffect c .storage u = commitPass (u.modChan .storage f))
    (hp : p = { s with
      chans := s.chans.set .storage
        (f { s.chan .storage with dir := dirAfter s.cfg v (s.chan .storage).dir }) }) :
    (∀ u, exec .devCommit p = .next u →
      ∃ t, exec i s = .next t ∧ { t with lines := u.lines, calls := u.calls } = u ∧
        LineAt .storage false t ∧ SameOtherLines .storage u t ∧
        t.calls = releaseCalls s.cfg .storage ++ u.calls) ∧
    (∀ r, exec .devCommit p = .refused r → exec i s = .refused r) := by
  have heffect : commandEffect c .storage
      (storeDir .storage (csrWriteValue s.cfg v) (s.answer .none)) = exec .devCommit p := by
    have hstart : (storeDir .storage (csrWriteValue s.cfg v) (s.answer .none)).modChan .storage f =
        p.answer .none := by
      rw [storeDir_csrWriteValue, hp]
      exact congrArg (State.answer · .none) (State.modChan_modChan s .storage _ f)
    rw [hf, hstart]
    rfl
  refine ⟨fun u hu => ?answers, fun r hr => exec_csrWriteOf_refused hw hwidth (heffect.trans hr)⟩
  have hu' := heffect.trans hu
  refine ⟨u.irqRelease .storage, exec_csrWriteOf_next hw hwidth hu', ?_, lineAt_irqRelease u _,
    sameOtherLines_irqRelease u _, by rw [calls_irqRelease, csrEffect_cfg hu']⟩
  unfold State.irqRelease State.driveLine
  split <;> rfl

/-! ### A pass that is not refused -/

/-- A burst leaves a segment aligned: a whole number of bursts is still to go, from a word boundary
(42_burst_engine.md R164, R165). -/
theorem segmentOk_burstDone {s : State} (hburst : s.cfg.burst % wordBytes = 0) (hc : canCommit s = true)
    (hm : commitMisaligned s.cfg (s.chan .storage) = false) : SegmentOk (burstDone s) := by
  obtain ⟨hle, hfits⟩ := burst_fits hc hm
  simp only [commitMisaligned, Bool.or_eq_false_iff, bne_eq_false_iff_eq] at hm
  obtain ⟨hword, hwhole⟩ := hm
  have := (s.chan .storage).limit.isLt
  have hroom : ((s.chan .storage).limit - (s.chan .storage).next).toNat =
      (s.chan .storage).limit.toNat - (s.chan .storage).next.toNat := BitVec.toNat_sub_of_le hle
  have hnext : ((s.chan .storage).next + burstWord s.cfg).toNat =
      (s.chan .storage).next.toNat + s.cfg.burst := by
    simp only [burstWord, BitVec.toNat_add, BitVec.toNat_ofNat]
    omega
  have hleft : ((s.chan .storage).limit - ((s.chan .storage).next + burstWord s.cfg)).toNat =
      ((s.chan .storage).limit - (s.chan .storage).next).toNat - s.cfg.burst := by
    rw [BitVec.toNat_sub_of_le (BitVec.le_def.2 (by omega)), hnext, hroom]
    omega
  intro _
  simp only [chan_burstDone_same, cfg_burstDone]
  rw [hnext, hleft, Nat.add_mod, hword, hburst]
  exact ⟨rfl, Nat.mod_eq_zero_of_dvd (Nat.dvd_sub (Nat.dvd_of_mod_eq_zero hwhole) (dvd_refl _))⟩

theorem SegmentOk.of_same {s t : State} (h : SegmentOk s) (hcfg : t.cfg = s.cfg)
    (hnext : (t.chan .storage).next = (s.chan .storage).next)
    (hlimit : (t.chan .storage).limit = (s.chan .storage).limit) : SegmentOk t := by
  simpa only [SegmentOk, hcfg, hnext, hlimit] using h

/-- Where a burst can be committed, an aligned segment is not refused (42_burst_engine.md R165). -/
theorem commitMisaligned_of_segmentOk {s : State} (h : SegmentOk s) (hc : canCommit s = true) :
    commitMisaligned s.cfg (s.chan .storage) = false := by
  simp only [canCommit, Bool.and_eq_true] at hc
  simpa [commitMisaligned] using h hc.2

theorem exists_commitLoop_of_segmentOk (turns : Nat) (s : State) (hburst : s.cfg.burst % wordBytes = 0)
    (hs : SegmentOk s) : ∃ t, commitLoop turns s = .next t := by
  induction turns generalizing s with
  | zero => exact ⟨s, rfl⟩
  | succ turns ih =>
    have hf : SegmentOk s.fill := hs
    rcases commitTurn_cases s.fill with ⟨-, e⟩ | ⟨hc, hm, -⟩ | ⟨hc, hm, u, hchans, hcfg, hstaging, -, hturn⟩
    · exact ⟨_, by rw [commitLoop, e]⟩
    · rw [commitMisaligned_of_segmentOk hf hc] at hm
      cases hm
    · have hchan : u.chan .storage = s.fill.chan .storage := congrArg (PerChan.get · .storage) hchans
      rcases hturn with e | ⟨e, -⟩ | e | e
      · exact ⟨_, by rw [commitLoop, e]⟩
      · exact ⟨_, by rw [commitLoop, e]⟩
      · exact ⟨_, by rw [commitLoop, e]⟩
      · have hu : u.cfg.burst % wordBytes = 0 := by rw [hcfg]; exact hburst
        have hdone : SegmentOk (burstDone u) :=
          segmentOk_burstDone hu (by simpa only [canCommit, hstaging, hcfg, hchan] using hc)
            (by rw [hcfg, hchan]; exact hm)
        rw [commitLoop, e]
        exact ih (burstDone u) (by rw [cfg_burstDone]; exact hu) hdone

theorem exists_commitPass_of_segmentOk {s : State} (hburst : s.cfg.burst % wordBytes = 0)
    (hs : SegmentOk s) : ∃ t, commitPass s = .next t := by
  unfold commitPass
  split
  · exact ⟨_, rfl⟩
  · obtain ⟨u, hu⟩ := exists_commitLoop_of_segmentOk (s.ready.length + 2) s hburst hs
    exact ⟨u.devHandBack, by rw [hu]⟩

/-- On an aligned segment every command has an effect: the pass of two of them meets the pointers that the
write found. -/
theorem exists_commandEffect_of_segmentOk (c : Command) {s : State} (hburst : s.cfg.burst % wordBytes = 0)
    (hs : SegmentOk s) : ∃ u, commandEffect c .storage s = .next u := by
  have pass (f : Channel → Channel) (hf : ∀ k, (f k).next = k.next ∧ (f k).limit = k.limit) :
      ∃ u, passOnStorage .storage (s.modChan .storage f) = .next u := by
    obtain ⟨hnext, hlimit⟩ := hf (s.chan .storage)
    exact exists_commitPass_of_segmentOk (s := s.modChan .storage f) hburst
      (hs.of_same rfl (by rw [State.chan_modChan_same, hnext]) (by rw [State.chan_modChan_same, hlimit]))
  by_cases hclr : c = .clrcomplete
  · subst hclr
    exact pass _ fun _ => ⟨rfl, rfl⟩
  by_cases harm : c = .setsupdateClrcomplete
  · subst harm
    exact pass _ fun _ => ⟨rfl, rfl⟩
  exact exists_commandEffect_of_runsNoPass (fun _ => ⟨hclr, harm⟩) s

/-! ### The statements -/

/-- Settles O14: the release is the last thing a CSR write does, no command lowers a line, and a discarded
write only logs. -/
theorem csrWriteEndsWithRelease : Obligations.CsrWriteEndsWithRelease := by
  refine ⟨fun i c ch v s t hw h => ?decoded, fun off v s t hd h l => ?unknown⟩
  case decoded =>
    obtain ⟨u, hu, rfl⟩ := csrWriteOf_next_inv hw h
    have hcfg := csrEffect_cfg hu
    refine ⟨lineAt_irqRelease u ch, fun l hl => ?released, fun l hl hhigh => ?others⟩
    case released => rw [calls_irqRelease, hcfg, releaseCalls, hl]; rfl
    case others =>
      rw [sameOtherLines_irqRelease u ch l (by rwa [hcfg])]
      exact commandEffect_level_high hu (by rw [level_storeDir]; exact hhigh)
  case unknown =>
    obtain ⟨-, -, -, ⟨-, rfl⟩ | ⟨ch, hd', -⟩⟩ := execWrCsr_next h
    · rfl
    · rw [hd] at hd'
      cases hd'

/-- Settles O15: the direction store comes first, and the command then keeps it or clears it. -/
theorem directionIsStoredUngated : Obligations.DirectionIsStoredUngated := by
  intro i c ch v s t hw h
  obtain ⟨u, hu, rfl⟩ := csrWriteOf_next_inv hw h
  rw [State.chan_irqRelease, commandEffect_dir hu, chan_storeDir_dirAfter]

/-- Settles O16: both are the CSR write of that command to that channel. -/
theorem wrCsrRunsTheCommandItCarries : Obligations.WrCsrRunsTheCommandItCarries := by
  refine fun s off ch hd => ⟨fun v _ => ?wide, fun b _ => ?narrow⟩
  case wide =>
    rw [exec_csrWriteOf (csrWriteOf_wrCsr hd rfl), exec_csrWriteOf (csrWriteOf_wideInstr s.cfg _ ch v)]
  case narrow =>
    rw [exec_csrWriteOf (csrWriteOf_wrCsr hd rfl), exec_csrWriteOf (csrWriteOf_narrowInstr s.cfg _ ch b)]

/-- Settles O17: the effect is `resetFields` on the channel, which a direction stored before does not
change. -/
theorem resetCommandClearsFourFields : Obligations.ResetCommandClearsFourFields :=
  ⟨by decide, rfl, fun _ _ _ _ hw hwidth =>
    exec_fieldCommand hw hwidth resetFields (fun _ => rfl) fun _ => by decide⟩

/-- Settles O18: the effect is the emptying alone. -/
theorem initbufCommandEmptiesStorageStaging : Obligations.InitbufCommandEmptiesStorageStaging :=
  ⟨by decide, rfl, fun _ ch _ _ hw hwidth =>
    exec_initBufCommand hw hwidth id (fun u => by rw [State.modChan_id]; rfl) fun _ => by decide⟩

/-- Settles O19: the fields of the reset and the staging buffer of the emptying are disjoint. -/
theorem resetInitbufCommandDoesBoth : Obligations.ResetInitbufCommandDoesBoth := by
  refine ⟨by decide, rfl, fun ch s => ?commute, fun i ch v s hw hwidth =>
    exec_initBufCommand hw hwidth resetFields (fun _ => rfl) fun _ => by decide⟩
  case commute =>
    unfold doInitBuf
    split <;> rfl

/-- Settles O20: each effect is its flags. -/
theorem enableCommandsSetTheirFlags : Obligations.EnableCommandsSetTheirFlags := by
  refine ⟨by decide, rfl, by decide, rfl, fun i ch v s hw hwidth => ?enable, fun i ch v s hw hwidth => ?both⟩
  case enable =>
    exact exec_fieldCommand hw hwidth (fun c => { c with enable := true }) (fun _ => rfl) fun _ => by decide
  case both =>
    exact exec_fieldCommand hw hwidth (fun c => { c with enable := true, supdate := true }) (fun _ => rfl)
      fun _ => by decide

/-- Settles O21: the effect is the diagnostic. -/
theorem noneAndUnrecognisedOnlyLog : Obligations.NoneAndUnrecognisedOnlyLog := by
  refine ⟨by decide, fun i c ch v s hw hwidth hc => ?logs⟩
  have hpass : RunsNoPass c ch := fun _ => by
    constructor <;> rintro rfl <;> exact absurd hc (by decide)
  obtain ⟨t, ht, hchan, hstaging, hcalls, hline, hframe⟩ :=
    exec_plainCommand hw hwidth (commandEffect_without_effect hc ch _) hpass
  refine ⟨t, ht, ?_, hframe.onlyChannel ?_, hline, ?_⟩
  · rw [hchan, State.chan_logMsg, chan_storeDir_dirAfter]
  · rw [hstaging, State.staging_logMsg, staging_storeDir, State.staging_answer]
  · rw [hcalls, State.calls_logMsg, calls_storeDir, State.calls_answer]

/-- Settles O22: off `storage` the effect is a field, on it the device's call from there. -/
theorem clearCompleteRunsAPassOnStorage : Obligations.ClearCompleteRunsAPassOnStorage := by
  refine ⟨by decide, rfl, fun i ch v s hw hwidth hch => ?field, fun i v s p hw hwidth hp => ?pass⟩
  case field =>
    exact exec_fieldCommand hw hwidth (fun c => { c with complete := false })
      (fun _ => passOnStorage_of_ne hch _) fun e => absurd e hch
  case pass => exact exec_passCommand hw hwidth (fun c => { c with complete := false }) (fun _ => rfl) hp

/-- Settles O23, as O22 with the arming. -/
theorem rearmRunsAPassOnStorage : Obligations.RearmRunsAPassOnStorage := by
  refine ⟨by decide, rfl, fun i ch v s hw hwidth hch => ?field, fun i v s p hw hwidth hp => ?pass⟩
  case field =>
    exact exec_fieldCommand hw hwidth (fun c => { c with supdate := true, complete := false })
      (fun _ => passOnStorage_of_ne hch _) fun e => absurd e hch
  case pass =>
    exact exec_passCommand hw hwidth (fun c => { c with supdate := true, complete := false })
      (fun _ => rfl) hp

/-- Settles O24: the direction store keeps the segment, and only a pass on `storage` could be refused. -/
theorem csrWritesComplete : Obligations.CsrWritesComplete := by
  intro i c ch v s hw hwidth hengine
  have heffect : ∃ u, commandEffect c ch
      (storeDir ch (csrWriteValue s.cfg v) (s.answer .none)) = .next u := by
    by_cases hpass : ch = .storage ∧ (c = .clrcomplete ∨ c = .setsupdateClrcomplete)
    · obtain ⟨rfl, hc⟩ := hpass
      obtain ⟨⟨⟨-, hburst⟩, -⟩, -, hseg⟩ := hengine (runsEngine_of_csrWriteOf hw hc)
      refine exists_commandEffect_of_segmentOk c (by rwa [cfg_storeDir])
        (hseg.of_same (by simp) ?_ ?_) <;> rw [chan_storeDir_dirAfter]
    · exact exists_commandEffect_of_runsNoPass
        (fun e => not_or.1 fun hc => hpass ⟨e, hc⟩) _
  obtain ⟨u, hu⟩ := heffect
  refine ⟨u.irqRelease ch, exec_csrWriteOf_next hw hwidth hu, fun k hk => ?_, lineAt_irqRelease u ch⟩
  rw [State.chan_irqRelease, commandEffect_sameOtherChannels hu k hk, chan_storeDir_ne _ _ _ hk,
    State.chan_answer]

end Sys2Proof.Machine

/-! PROOF. The storage channel's burst engine (42_burst_engine.md R160 to R175): the guard, the word
of a flush, the bursts of a commit pass and the turns it takes. -/

namespace Sys2Proof.Machine

/-! ### The guard -/

theorem guarded_iff {s : State} {ch : Chan} :
    guarded s ch = true ↔ s.cfg.enableGuard = true ∧ (s.chan ch).enable = false := by
  simp [guarded]

theorem not_guarded_iff {s : State} {ch : Chan} :
    guarded s ch = false ↔ (s.cfg.enableGuard = true → (s.chan ch).enable = true) := by
  simp [guarded]

theorem commitPass_of_guarded {s : State} (h : guarded s .storage = true) :
    commitPass s = .next ((s.logMsg .commitWhileDisabled).devHandBack) :=
  if_pos h

theorem flush_of_guarded {s : State} (h : guarded s .storage = true) :
    flush s = .next (s.logMsg .flushWhileDisabled) :=
  if_pos h

theorem memReadXfer_storage (s : State) : memReadXfer .storage s = .refused .notGeneric := rfl

theorem memWriteXfer_storage (bytes : List Byte) (s : State) :
    memWriteXfer .storage bytes s = .refused .notGeneric := rfl

theorem memReadXfer_of_guarded {s : State} {ch : Chan} (hch : ch ≠ .storage) (h : guarded s ch = true) :
    memReadXfer ch s = .next ((s.logMsg (.transferWhileDisabled ch)).answer (.block 0 [])) := by
  rw [memReadXfer, if_neg hch, if_pos h]

theorem memWriteXfer_of_guarded {s : State} {ch : Chan} (bytes : List Byte) (hch : ch ≠ .storage)
    (h : guarded s ch = true) : memWriteXfer ch bytes s = .next (s.logMsg (.transferWhileDisabled ch)) := by
  rw [memWriteXfer, if_neg hch, if_pos h]

/-! ### The cases of a flush -/

theorem flush_of_nothing {s : State} (hg : guarded s .storage = false)
    (h : s.staging.count = 0 ∨ (s.chan .storage).next.ult (s.chan .storage).limit = false) :
    flush s = .next s := by
  simp [flush, hg, h]

theorem flushMisaligned_iff {c : Channel} :
    flushMisaligned c = true ↔ c.next.toNat % wordBytes ≠ 0 ∨ (c.limit - c.next).toNat < wordBytes := by
  simp [flushMisaligned]

theorem flush_of_misaligned {s : State} (hg : guarded s .storage = false) (hcount : s.staging.count ≠ 0)
    (hlt : (s.chan .storage).next.ult (s.chan .storage).limit = true)
    (hm : flushMisaligned (s.chan .storage) = true) : flush s = .refused .misaligned := by
  simp [flush, hg, hcount, hlt, hm]

/-- A flush goes on to write its word (42_burst_engine.md R173). -/
structure WritesFlushWord (s : State) : Prop where
  unguarded : guarded s .storage = false
  staged : s.staging.count ≠ 0
  hasRoom : (s.chan .storage).next.ult (s.chan .storage).limit = true
  aligned : (s.chan .storage).next.toNat % wordBytes = 0
  fits : wordBytes ≤ ((s.chan .storage).limit - (s.chan .storage).next).toNat

theorem WritesFlushWord.not_misaligned {s : State} (h : WritesFlushWord s) :
    flushMisaligned (s.chan .storage) = false := by
  rw [← Bool.not_eq_true, flushMisaligned_iff, not_or]
  exact ⟨not_not.2 h.aligned, Nat.not_lt.2 h.fits⟩

theorem WritesFlushWord.flush_ok {s : State} (h : WritesFlushWord s) (ho : s.oracle.head? ≠ some .fault) :
    flush s = .next (flushDone { s with
      draws := s.draws + flushPad s.staging
      mem := writeBytes s.mem (s.chan .storage).next (flushWord s)
      oracle := s.oracle.tail }) := by
  simp [flush, h.unguarded, h.staged, h.hasRoom, h.not_misaligned,
    memWrite_ok (s := { s with draws := s.draws + flushPad s.staging }) _ _ ho]

theorem WritesFlushWord.flush_fault {s : State} (h : WritesFlushWord s) {later : List BusAnswer}
    (ho : s.oracle = .fault :: later) :
    flush s = .next (faultTransition { s with
      draws := s.draws + flushPad s.staging
      oracle := later }) := by
  simp [flush, h.unguarded, h.staged, h.hasRoom, h.not_misaligned,
    memWrite_fault (s := { s with draws := s.draws + flushPad s.staging }) _ _ ho]

/-! ### The word of a flush -/

@[simp] theorem length_flushWord (s : State) : (flushWord s).length = wordBytes := rfl

theorem getElem_flushWord (s : State) {i : Nat} (h : i < (flushWord s).length) :
    (flushWord s)[i] = flushByte s i := by
  have hi : i < 4 := h
  interval_cases i <;> rfl

/-- The staged bytes of a flush word; the others are free draws (log 9). -/
theorem flushByte_of_staged {s : State} {i : Nat} (h : i < s.staging.count)
    (hbuf : i < s.staging.buf.length) : flushByte s i = s.staging.buf[i] := by
  rw [flushByte, if_pos h, stagedByte, List.getD_eq_getElem?_getD, List.getElem?_eq_getElem hbuf,
    Option.getD_some]

/-- The first word of the staged bytes stands at the front of the word that a flush writes. -/
theorem take_stagedBytes_isPrefix_flushWord {s : State} (h : s.staging.count ≤ s.staging.buf.length) :
    (stagedBytes s.staging).take wordBytes <+: flushWord s := by
  rw [List.prefix_iff_getElem]
  have hl : ((stagedBytes s.staging).take wordBytes).length = min wordBytes s.staging.count := by
    rw [List.length_take, length_stagedBytes h]
  refine ⟨by rw [hl, length_flushWord]; exact Nat.min_le_left _ _, fun i hi => ?_⟩
  rw [getElem_flushWord, flushByte_of_staged (by omega) (by omega)]
  simp [stagedBytes]

/-- Dropping `k` bytes from the buffer drops them from the staged ones (42_burst_engine.md R173). -/
theorem stagedBytes_stageDrop {st : Staging} (h : st.count ≤ st.buf.length) {k : Nat} (hk : k ≤ st.count) :
    stagedBytes (stageDrop st k) = (stagedBytes st).drop k := by
  have hl : ((st.buf.drop k).take (st.count - k)).length = st.count - k := by
    rw [List.length_take, List.length_drop]
    omega
  rw [stagedBytes, stageDrop, List.take_left' hl, stagedBytes, List.drop_take]

/-! ### Bytes held in memory -/

theorem holdsBytes_writeBytes {m : Memory} (hm : m.wf = true) {t : State} {a : Addr} {bs : List Byte}
    (hl : bs.length ≤ 2 ^ 32) (ht : t.mem = writeBytes m a bs) : HoldsBytes t a bs := by
  intro i hi
  rw [ht, readByte_writeBytes_inside hm a bs hl hi]

theorem HoldsBytes.of_isPrefix {t : State} {a : Addr} {xs ys : List Byte} (h : HoldsBytes t a ys)
    (hp : xs <+: ys) : HoldsBytes t a xs := by
  intro i hi
  rw [h i (Nat.lt_of_lt_of_le hi hp.length_le), hp.getElem hi]

theorem sameMemoryOutside_writeBytes {s t : State} (hm : s.mem.wf = true) {a : Addr} {bs : List Byte}
    (hl : bs.length ≤ 2 ^ 32) (ht : t.mem = writeBytes s.mem a bs) :
    SameMemoryOutside a bs.length s t := by
  intro x hx
  rw [ht, readByte_writeBytes_outside hm a bs hl hx]

/-! ### The record of a fault -/

theorem sameOtherLines_faultTransition (s : State) : SameOtherLines .storage s (faultTransition s) := by
  intro l hl
  rw [level_faultTransition, if_neg fun h => hl h.2]

theorem lineAt_faultTransition (s : State) (h : s.cfg.faultIrq = true) :
    LineAt .storage true (faultTransition s) := by
  intro l hl
  rw [cfg_faultTransition] at hl
  rw [level_faultTransition, if_pos ⟨h, hl⟩]

theorem level_faultTransition_of_not_faultIrq (s : State) (h : s.cfg.faultIrq = false) (l : IrqLine) :
    (faultTransition s).level l = s.level l := by
  rw [level_faultTransition, if_neg (by simp [h])]

/-! ### The room of a segment -/

/-- The bytes from `next` up to `limit`; none where `next` is at or past `limit` (42_burst_engine.md R164). -/
def Channel.room (c : Channel) : Nat := c.limit.toNat - c.next.toNat

theorem Channel.room_pos_iff {c : Channel} : 0 < c.room ↔ c.next.ult c.limit = true := by
  simp [Channel.room, BitVec.ult]

theorem Channel.toNat_limit_sub_next {c : Channel} (h : 0 < c.room) :
    (c.limit - c.next).toNat = c.room :=
  BitVec.toNat_sub_of_le (BitVec.le_def.2 (by unfold Channel.room at h; omega))

theorem Channel.room_eq_ite (c : Channel) :
    c.room = if c.next.ult c.limit then (c.limit - c.next).toNat else 0 := by
  split
  · next h => exact (c.toNat_limit_sub_next (room_pos_iff.2 h)).symm
  · next h => exact Nat.eq_zero_of_not_pos fun hp => h (room_pos_iff.1 hp)

theorem Channel.room_lt (c : Channel) : c.room < 2 ^ 32 :=
  Nat.lt_of_le_of_lt (Nat.sub_le _ _) c.limit.isLt

/-- An advance within the room uses up as much of it. -/
theorem Channel.room_advance {c : Channel} {n : Nat} (h : n ≤ c.room) :
    ({ c with next := c.next + BitVec.ofNat 32 n } : Channel).room = c.room - n := by
  have := c.limit.isLt
  unfold Channel.room at *
  simp only [BitVec.toNat_add, BitVec.toNat_ofNat]
  omega

/-- An advance over the whole room ends at `limit`. -/
theorem Channel.next_add_room {c : Channel} (h : 0 < c.room) :
    c.next + BitVec.ofNat 32 c.room = c.limit := by
  apply BitVec.eq_of_toNat_eq
  have := c.limit.isLt
  unfold Channel.room at *
  simp only [BitVec.toNat_add, BitVec.toNat_ofNat]
  omega

/-- `next` is off `limit` exactly where there is room, for a segment that does not start past it. -/
theorem Channel.next_eq_limit_iff {c : Channel} (h : c.next.toNat ≤ c.limit.toNat) :
    c.next = c.limit ↔ c.room = 0 := by
  rw [← BitVec.toNat_inj, Channel.room]
  omega

theorem SegmentOk.burst_dvd_room {s : State} (h : SegmentOk s) : s.cfg.burst ∣ (s.chan .storage).room := by
  rcases Nat.eq_zero_or_pos (s.chan .storage).room with h0 | hp
  · rw [h0]
    exact dvd_zero _
  · obtain ⟨-, hwhole⟩ := h (Channel.room_pos_iff.1 hp)
    rw [Channel.toNat_limit_sub_next hp] at hwhole
    exact Nat.dvd_of_mod_eq_zero hwhole

/-! ### The bytes of a turn -/

/-- Staging holds a burst after the fill exactly where one is available. -/
theorem canCommit_fill_iff {s : State} (h : StagingOk s) :
    canCommit s.fill = true ↔ s.cfg.burst ≤ (available s).length ∧ 0 < (s.chan .storage).room := by
  obtain ⟨-, -, hcount, -⟩ := fill_spec h
  rw [canCommit, Bool.and_eq_true, beq_iff_eq, hcount, Channel.room_pos_iff]
  simp

theorem available_burstDone (s : State) : available (burstDone s) = s.ready := by
  simp [available, burstDone, stagedBytes]

/-- What a turn commits are the first bytes available. -/
theorem wordsBytes_fill {s : State} (h : StagingOk s) {j : Nat} (hb : s.cfg.burst ≤ (available s).length)
    (hj : wordBytes * j ≤ s.cfg.burst) :
    wordsBytes s.fill.staging j 0 = (available s).take (wordBytes * j) := by
  obtain ⟨hstaged, -, hcount, hbuf⟩ := fill_spec h
  have hfull : stagedBytes s.fill.staging = s.fill.staging.buf := by
    rw [stagedBytes, List.take_of_length_le]
    omega
  rw [wordsBytes_eq _ _ _ (by rw [Nat.zero_add]; omega), Nat.mul_zero, List.drop_zero, ← hfull,
    hstaged, List.take_take, Nat.min_eq_left hj]

/-! ### The turns of a pass -/

theorem commitLoop_of_leave {s t : State} (h : commitTurn s.fill = .leave t) (n : Nat) :
    commitLoop (n + 1) s = .next t := by
  rw [commitLoop, h]

theorem commitLoop_of_again {s t : State} (h : commitTurn s.fill = .again t) (n : Nat) :
    commitLoop (n + 1) s = commitLoop n t := by
  rw [commitLoop, h]

theorem commitLoop_of_refuse {s : State} {r : Refusal} (h : commitTurn s.fill = .refuse r) (n : Nat) :
    commitLoop (n + 1) s = .refused r := by
  rw [commitLoop, h]

/-- A burst that may be committed is not empty: a segment with room is no whole number of empty bursts. -/
theorem burst_pos_of_committable {s : State} (hc : canCommit s = true)
    (hm : commitMisaligned s.cfg (s.chan .storage) = false) : 0 < s.cfg.burst := by
  have hroom : 0 < (s.chan .storage).room := by
    rw [canCommit, Bool.and_eq_true] at hc
    exact Channel.room_pos_iff.2 hc.2
  refine Nat.pos_of_ne_zero fun h0 => ?_
  simp only [commitMisaligned, h0, Nat.mod_zero, Bool.or_eq_false_iff, bne_eq_false_iff_eq,
    Channel.toNat_limit_sub_next hroom] at hm
  omega

/-- A turn that goes on has taken a whole burst, which is not empty, from the bytes available. -/
theorem commitTurn_again {s t : State} (hs : StagingOk s) (h : commitTurn s.fill = .again t) :
    StagingOk t ∧ t.cfg = s.cfg ∧ 0 < s.cfg.burst ∧
      (available t).length + s.cfg.burst = (available s).length := by
  rcases commitTurn_cases s.fill with ⟨-, e⟩ | ⟨-, -, e⟩ | ⟨hc, hm, u, -, hcfg, hstaging, hready, hturn⟩
  · rw [e] at h
    cases h
  · rw [e] at h
    cases h
  · rcases hturn with e | ⟨e, -⟩ | e | e <;> rw [e] at h <;> cases h
    obtain ⟨-, hrest, -, hbuf⟩ := fill_spec hs
    obtain ⟨hfull, -⟩ := (canCommit_fill_iff hs).1 hc
    refine ⟨⟨Nat.zero_le _, ?_⟩, ?_, burst_pos_of_committable (s := s.fill) hc hm, ?_⟩
    · rw [cfg_burstDone, hcfg]
      exact (congrArg (·.buf.length) hstaging).trans hbuf
    · rw [cfg_burstDone, hcfg, State.cfg_fill]
    · rw [available_burstDone, hready, hrest, List.length_drop]
      omega

/-- One turn more than the bursts available changes nothing. -/
theorem commitLoop_succ_eq {n : Nat} {s : State} (hs : StagingOk s)
    (hn : (available s).length / s.cfg.burst < n) : commitLoop (n + 1) s = commitLoop n s := by
  induction n generalizing s with
  | zero => exact absurd hn (Nat.not_lt_zero _)
  | succ n ih =>
    cases ht : commitTurn s.fill with
    | leave t => rw [commitLoop_of_leave ht, commitLoop_of_leave ht]
    | refuse r => rw [commitLoop_of_refuse ht, commitLoop_of_refuse ht]
    | again t =>
      obtain ⟨hstaging, hcfg, hpos, hless⟩ := commitTurn_again hs ht
      rw [commitLoop_of_again ht, commitLoop_of_again ht]
      refine ih hstaging ?_
      rw [← hless, Nat.add_div_right _ hpos] at hn
      rw [hcfg]
      exact Nat.lt_of_succ_lt_succ hn

/-- The bytes available to a pass are a burst at most more than the device has ready. -/
theorem bursts_available_lt {s : State} (hs : StagingOk s) :
    (available s).length / s.cfg.burst < s.ready.length + 2 := by
  obtain ⟨hcount, hbuf⟩ := hs
  have hlen : (available s).length ≤ s.cfg.burst + s.ready.length := by
    rw [available, List.length_append, length_stagedBytes (by omega)]
    omega
  rcases Nat.eq_zero_or_pos s.cfg.burst with h0 | hpos
  · rw [h0, Nat.div_zero]
    omega
  · rw [Nat.div_lt_iff_lt_mul hpos, Nat.add_mul]
    have : s.ready.length ≤ s.ready.length * s.cfg.burst := Nat.le_mul_of_pos_right _ hpos
    omega

/-- The bound of log 16 is no limit of the machine. -/
theorem commitLoop_eq_of_le {n : Nat} {s : State} (hs : StagingOk s) (hn : s.ready.length + 2 ≤ n) :
    commitLoop n s = commitLoop (s.ready.length + 2) s := by
  induction n, hn using Nat.le_induction with
  | base => rfl
  | succ n hn ih =>
    rw [commitLoop_succ_eq hs (Nat.lt_of_lt_of_le (bursts_available_lt hs) hn), ih]

/-! ### A whole pass -/

theorem commitPass_of_commitLoop_next {s t : State} (hg : guarded s .storage = false)
    (h : commitLoop (s.ready.length + 2) s = .next t) : commitPass s = .next t.devHandBack := by
  simp [commitPass, hg, h]

theorem commitPass_of_commitLoop_refused {s : State} {r : Refusal} (hg : guarded s .storage = false)
    (h : commitLoop (s.ready.length + 2) s = .refused r) : commitPass s = .refused r := by
  simp [commitPass, hg, h]

theorem commitPass_of_misaligned {s : State} (hg : guarded s .storage = false)
    (hc : canCommit s.fill = true) (hm : commitMisaligned s.cfg (s.chan .storage) = true) :
    commitPass s = .refused .misaligned := by
  have hturn : commitTurn s.fill = .refuse .misaligned := by simp [commitTurn, hc, hm]
  exact commitPass_of_commitLoop_refused hg (commitLoop_of_refuse hturn _)

/-- A pass ends with the hand-back, guarded or not (42_burst_engine.md R162, R172). -/
theorem commitPass_calls_head {s t : State} (h : commitPass s = .next t) :
    t.calls.head? = some .devHandBack := by
  rcases commitPass_next h with ⟨-, rfl⟩ | ⟨-, u, -, rfl⟩ <;> rfl

theorem commitPass_draws {s t : State} (h : commitPass s = .next t) : t.draws = s.draws :=
  commitPass_invariant (fun u => u.draws = s.draws) (fun _ _ hu => hu) (fun _ hu => hu)
    (fun _ _ _ _ hu => hu) (fun _ _ hu => hu) (fun _ hu => hu)
    (fun _ hu => (draws_atLimit _).trans hu) (fun _ hu => (draws_faultTransition _).trans hu) rfl h

/-- A pass drives no line but `IRQ(storage)` (42_burst_engine.md R167, R171). -/
theorem commitPass_sameOtherLines {s t : State} (h : commitPass s = .next t) :
    SameOtherLines .storage s t := by
  intro l hl
  have hsame : t.cfg = s.cfg ∧ t.level l = s.level l :=
    commitPass_invariant (fun u => u.cfg = s.cfg ∧ u.level l = s.level l) (fun _ _ hu => hu)
      (fun _ hu => hu) (fun _ _ _ _ hu => hu) (fun _ _ hu => hu) (fun _ hu => hu)
      (fun u ⟨hcfg, hu⟩ => ⟨(cfg_atLimit u).trans hcfg, by
        rw [level_atLimit, hcfg, if_neg hl, hu]⟩)
      (fun u ⟨hcfg, hu⟩ => ⟨(cfg_faultTransition u).trans hcfg, by
        rw [level_faultTransition, hcfg, if_neg fun e => hl e.2, hu]⟩) ⟨rfl, rfl⟩ h
  exact hsame.2

/-- What `DEV.COMMIT` keeps whatever its pass meets, and how it ends. -/
theorem devCommit_frame {s t : State} (h : exec .devCommit s = .next t) :
    SameOtherChannels .storage s t ∧ SameOtherLines .storage s t ∧ SameSetting s t ∧
      t.draws = s.draws ∧ t.calls.head? = some .devHandBack := by
  change commitPass (s.answer .none) = .next t at h
  exact ⟨commitPass_sameOtherChannels (s := s.answer .none) h,
    commitPass_sameOtherLines (s := s.answer .none) h, commitPass_sameSetting (s := s.answer .none) h,
    commitPass_draws (s := s.answer .none) h, commitPass_calls_head h⟩

theorem lineAt_atLimit (s : State) : LineAt .storage true (atLimit s) := by
  intro l hl
  rw [cfg_atLimit] at hl
  rw [level_atLimit, if_pos hl]

/-! ### The end of a turn -/

theorem commitTurn_of_fault {s u : State} {a : Addr} (hc : canCommit s = true)
    (hm : commitMisaligned s.cfg (s.chan .storage) = false)
    (hw : writeWords (s.chan .storage).next (s.cfg.burst / wordBytes) 0 s = .busFault a u) :
    commitTurn s = .leave (faultTransition u) := by
  simp [commitTurn, hc, hm, hw]

theorem commitTurn_of_written {s u : State} (hc : canCommit s = true)
    (hm : commitMisaligned s.cfg (s.chan .storage) = false)
    (hw : writeWords (s.chan .storage).next (s.cfg.burst / wordBytes) 0 s = .ok u) :
    commitTurn s =
      if ((burstDone u).chan .storage).next = ((burstDone u).chan .storage).limit then
        .leave (atLimit (burstDone u))
      else if (((burstDone u).chan .storage).limit - ((burstDone u).chan .storage).next).toNat <
        u.cfg.burst then .leave (burstDone u)
      else .again (burstDone u) := by
  simp [commitTurn, hc, hm, hw]

/-! ### One burst -/

/-- What a pass that is not refused starts from, and every burst keeps. -/
structure PassReady (s : State) : Prop where
  inv : s.Inv
  segment : SegmentOk s

/-- A pass has a burst to commit: its bytes are available and the segment has room. -/
structure HasBurst (s : State) : Prop where
  bytes : s.cfg.burst ≤ (available s).length
  room : 0 < (s.chan .storage).room

theorem PassReady.burst_pos {s : State} (hs : PassReady s) : 0 < s.cfg.burst := by
  obtain ⟨⟨⟨hpos, -⟩, -⟩, -⟩ := hs.inv
  exact hpos

theorem PassReady.burst_mod {s : State} (hs : PassReady s) : s.cfg.burst % wordBytes = 0 := by
  obtain ⟨⟨⟨-, hmod⟩, -⟩, -⟩ := hs.inv
  exact hmod

theorem PassReady.stagingOk {s : State} (hs : PassReady s) : StagingOk s := by
  obtain ⟨-, -, hst⟩ := hs.inv
  exact hst

theorem PassReady.mem_wf {s : State} (hs : PassReady s) : s.mem.wf = true := by
  obtain ⟨-, hmem, -⟩ := hs.inv
  exact hmem

/-- The words of a burst are its bytes. -/
theorem PassReady.words_burst {s : State} (hs : PassReady s) :
    wordBytes * (s.cfg.burst / wordBytes) = s.cfg.burst :=
  Nat.mul_div_cancel' (Nat.dvd_of_mod_eq_zero hs.burst_mod)

theorem PassReady.canCommit_fill {s : State} (hs : PassReady s) (hb : HasBurst s) :
    canCommit s.fill = true :=
  (canCommit_fill_iff hs.stagingOk).2 ⟨hb.bytes, hb.room⟩

theorem PassReady.not_misaligned {s : State} (hs : PassReady s) (hb : HasBurst s) :
    commitMisaligned s.cfg (s.chan .storage) = false :=
  commitMisaligned_of_segmentOk (s := s.fill) hs.segment (hs.canCommit_fill hb)

theorem PassReady.burst_le_room {s : State} (hs : PassReady s) (hb : HasBurst s) :
    s.cfg.burst ≤ (s.chan .storage).room :=
  Nat.le_of_dvd hb.room hs.segment.burst_dvd_room

/-- The state after the fill of a turn and the words that take its first `n` bytes, with the answers they left
(42_burst_engine.md R163, R164). -/
def turnWritten (n : Nat) (left : List BusAnswer) (s : State) : State :=
  { s.fill with
    mem := writeBytes s.mem (s.chan .storage).next ((available s).take n)
    oracle := left }

/-- The state after a turn in which every word of a burst was written (42_burst_engine.md R164). -/
def afterBurst (s : State) : State :=
  burstDone (turnWritten s.cfg.burst (s.oracle.drop (s.cfg.burst / wordBytes)) s)

theorem burstDone_turnWritten (s : State) :
    burstDone (turnWritten s.cfg.burst (s.oracle.drop (s.cfg.burst / wordBytes)) s) = afterBurst s := rfl

@[simp] theorem cfg_turnWritten (n : Nat) (left : List BusAnswer) (s : State) :
    (turnWritten n left s).cfg = s.cfg := rfl

@[simp] theorem oracle_afterBurst (s : State) :
    (afterBurst s).oracle = s.oracle.drop (s.cfg.burst / wordBytes) := rfl
@[simp] theorem mem_afterBurst (s : State) :
    (afterBurst s).mem =
      writeBytes s.mem (s.chan .storage).next ((available s).take s.cfg.burst) := rfl

@[simp] theorem chan_afterBurst (s : State) :
    (afterBurst s).chan .storage =
      { s.chan .storage with next := (s.chan .storage).next + BitVec.ofNat 32 s.cfg.burst } :=
  chan_burstDone_same _

@[simp] theorem stagedBytes_afterBurst (s : State) : stagedBytes (afterBurst s).staging = [] :=
  List.take_zero

theorem available_afterBurst {s : State} (h : StagingOk s) :
    available (afterBurst s) = (available s).drop s.cfg.burst := by
  obtain ⟨-, hready, -⟩ := fill_spec h
  rw [afterBurst, available_burstDone]
  exact hready

/-- With no fault among its answers, a burst writes the first bytes available at `next`. -/
theorem writeWords_fill {s : State} (hs : PassReady s) (hb : HasBurst s)
    (hok : ∀ x ∈ s.oracle.take (s.cfg.burst / wordBytes), x = BusAnswer.ok) :
    writeWords (s.chan .storage).next (s.cfg.burst / wordBytes) 0 s.fill =
      .ok (turnWritten s.cfg.burst (s.oracle.drop (s.cfg.burst / wordBytes)) s) := by
  have hwords := hs.words_burst
  rw [writeWords_ok _ _ _ s.fill hok, wordsBytes_fill hs.stagingOk hb.bytes (by omega), hwords]
  simp [turnWritten]

theorem passReady_afterBurst {s : State} (hs : PassReady s) (hb : HasBurst s) :
    PassReady (afterBurst s) :=
  ⟨burstDone_inv (hs.inv.fill.setMem _ _ _),
    segmentOk_burstDone hs.burst_mod (hs.canCommit_fill hb) (hs.not_misaligned hb)⟩

theorem room_afterBurst {s : State} (hs : PassReady s) (hb : HasBurst s) :
    ((afterBurst s).chan .storage).room = (s.chan .storage).room - s.cfg.burst := by
  rw [chan_afterBurst, Channel.room_advance (hs.burst_le_room hb)]

theorem next_le_limit_afterBurst {s : State} (hs : PassReady s) (hb : HasBurst s) :
    ((afterBurst s).chan .storage).next.toNat ≤ ((afterBurst s).chan .storage).limit.toNat := by
  obtain ⟨hle, hfits⟩ := burst_fits (s := s.fill) (hs.canCommit_fill hb) (hs.not_misaligned hb)
  rw [chan_afterBurst]
  exact (advance_within hle hfits).2

/-- A turn without a fault: the pass ends with the completion if the burst reached `limit`, and goes on
otherwise, since what is left of the segment is a whole number of bursts (42_burst_engine.md R166, R167). -/
theorem commitTurn_fill {s : State} (hs : PassReady s) (hb : HasBurst s)
    (hok : ∀ x ∈ s.oracle.take (s.cfg.burst / wordBytes), x = BusAnswer.ok) :
    commitTurn s.fill =
      if ((afterBurst s).chan .storage).room = 0 then .leave (atLimit (afterBurst s))
      else .again (afterBurst s) := by
  have hlimit := Channel.next_eq_limit_iff (next_le_limit_afterBurst hs hb)
  rw [commitTurn_of_written (hs.canCommit_fill hb) (hs.not_misaligned hb) (writeWords_fill hs hb hok),
    burstDone_turnWritten, cfg_turnWritten]
  by_cases h0 : ((afterBurst s).chan .storage).room = 0
  · rw [if_pos (hlimit.2 h0), if_pos h0]
  · have hpos := Nat.pos_of_ne_zero h0
    have hfits : s.cfg.burst ≤ ((afterBurst s).chan .storage).room :=
      Nat.le_of_dvd hpos (passReady_afterBurst hs hb).segment.burst_dvd_room
    rw [if_neg (mt hlimit.1 h0), if_neg h0, if_neg]
    rw [Channel.toNat_limit_sub_next hpos]
    omega

/-! ### The bursts before the last turn -/

/-- From `s` to `u` exactly `q` whole bursts have moved: their bytes out of those available and into memory
at `next`, in order, and `next` past them. -/
structure BurstsCommitted (q : Nat) (s u : State) : Prop where
  cfg : u.cfg = s.cfg
  lines : u.lines = s.lines
  chan : u.chan .storage =
    { s.chan .storage with next := (s.chan .storage).next + BitVec.ofNat 32 (q * s.cfg.burst) }
  mem : u.mem = writeBytes s.mem (s.chan .storage).next ((available s).take (q * s.cfg.burst))
  available : available u = (available s).drop (q * s.cfg.burst)
  oracle : u.oracle = s.oracle.drop (q * (s.cfg.burst / wordBytes))

/-- The bytes written next follow those of the bursts before. -/
theorem BurstsCommitted.writeBytes_next {q : Nat} {s u : State} (h : BurstsCommitted q s u)
    (hbytes : q * s.cfg.burst ≤ (Machine.available s).length) (n : Nat) :
    writeBytes u.mem (u.chan .storage).next ((Machine.available u).take n) =
      writeBytes s.mem (s.chan .storage).next ((Machine.available s).take (q * s.cfg.burst + n)) := by
  have hlen : ((Machine.available s).take (q * s.cfg.burst)).length = q * s.cfg.burst := by
    rw [List.length_take, Nat.min_eq_left hbytes]
  rw [List.take_add, writeBytes_append, hlen, h.mem, h.chan, h.available]

theorem BurstsCommitted.room {q : Nat} {s u : State} (h : BurstsCommitted q s u)
    (hroom : q * s.cfg.burst ≤ (s.chan .storage).room) :
    (u.chan .storage).room = (s.chan .storage).room - q * s.cfg.burst := by
  rw [h.chan, Channel.room_advance hroom]

theorem BurstsCommitted.zero (s : State) : BurstsCommitted 0 s s where
  cfg := rfl
  lines := rfl
  chan := by simp
  mem := by simp [writeBytes]
  available := by simp
  oracle := by simp

theorem BurstsCommitted.succ {q : Nat} {s u : State} (h : BurstsCommitted q s u) (hu : StagingOk u)
    (hbytes : q * s.cfg.burst ≤ (Machine.available s).length) :
    BurstsCommitted (q + 1) s (afterBurst u) where
  cfg := h.cfg
  lines := h.lines
  chan := by
    rw [chan_afterBurst, h.chan, h.cfg, Nat.succ_mul, BitVec.ofNat_add, BitVec.add_assoc]
  mem := by rw [mem_afterBurst, h.cfg, h.writeBytes_next hbytes, Nat.succ_mul]
  available := by rw [available_afterBurst hu, h.available, h.cfg, List.drop_drop, Nat.succ_mul]
  oracle := by rw [oracle_afterBurst, h.oracle, h.cfg, List.drop_drop, Nat.succ_mul]

/-- The bytes and the segment hold one burst more than `q`. -/
theorem BurstsCommitted.hasBurst {q : Nat} {s u : State} (h : BurstsCommitted q s u) (hs : PassReady s)
    (hbytes : (q + 1) * s.cfg.burst ≤ (Machine.available s).length)
    (hroom : (q + 1) * s.cfg.burst ≤ (s.chan .storage).room) : HasBurst u := by
  have hpos := hs.burst_pos
  rw [Nat.succ_mul] at hbytes hroom
  constructor
  · rw [h.cfg, h.available, List.length_drop]
    omega
  · rw [h.room (by omega)]
    omega

/-- The bursts that the bytes and the segment hold, one after the other. -/
theorem burstsCommitted_iterate {s : State} (hs : PassReady s) {q : Nat}
    (hbytes : q * s.cfg.burst ≤ (available s).length) (hroom : q * s.cfg.burst ≤ (s.chan .storage).room) :
    BurstsCommitted q s (afterBurst^[q] s) ∧ PassReady (afterBurst^[q] s) := by
  induction q with
  | zero => exact ⟨.zero s, hs⟩
  | succ q ih =>
    have hle : q * s.cfg.burst ≤ (q + 1) * s.cfg.burst := Nat.mul_le_mul_right _ (Nat.le_succ q)
    obtain ⟨hq, hready⟩ := ih (hle.trans hbytes) (hle.trans hroom)
    rw [Function.iterate_succ_apply']
    exact ⟨hq.succ hready.stagingOk (hle.trans hbytes),
      passReady_afterBurst hready (hq.hasBurst hs hbytes hroom)⟩

/-- With no fault among the answers to `q + 1` bursts, the last of them meets none. -/
theorem BurstsCommitted.answers_ok {q : Nat} {s u : State} (h : BurstsCommitted q s u)
    (hok : ∀ x ∈ s.oracle.take ((q + 1) * (s.cfg.burst / wordBytes)), x = BusAnswer.ok) :
    ∀ x ∈ u.oracle.take (u.cfg.burst / wordBytes), x = BusAnswer.ok := by
  intro x hx
  rw [h.oracle, h.cfg] at hx
  refine hok x ?_
  rw [Nat.succ_mul, List.take_add]
  exact List.mem_append_right _ hx

/-- The turns of bursts that do not reach `limit` (42_burst_engine.md R166). -/
theorem commitLoop_bursts {s : State} (hs : PassReady s) {q : Nat}
    (hbytes : q * s.cfg.burst ≤ (available s).length)
    (hroom : 0 < q → q * s.cfg.burst < (s.chan .storage).room)
    (hok : ∀ x ∈ s.oracle.take (q * (s.cfg.burst / wordBytes)), x = BusAnswer.ok) (n : Nat) :
    commitLoop (q + n) s = commitLoop n (afterBurst^[q] s) := by
  induction q generalizing n with
  | zero => rw [Nat.zero_add, Function.iterate_zero_apply]
  | succ q ih =>
    have hlt := hroom (Nat.succ_pos q)
    have hle : q * s.cfg.burst ≤ (q + 1) * s.cfg.burst := Nat.mul_le_mul_right _ (Nat.le_succ q)
    have hok' : ∀ x ∈ s.oracle.take (q * (s.cfg.burst / wordBytes)), x = BusAnswer.ok := fun x hx =>
      hok x (List.take_subset_take_left _ (Nat.mul_le_mul_right _ (Nat.le_succ q)) hx)
    obtain ⟨hq, hready⟩ := burstsCommitted_iterate hs (hle.trans hbytes) (hle.trans hlt.le)
    have hburst := hq.hasBurst hs hbytes hlt.le
    have hleft : ((afterBurst (afterBurst^[q] s)).chan .storage).room ≠ 0 := by
      rw [room_afterBurst hready hburst, hq.room (hle.trans hlt.le), hq.cfg]
      rw [Nat.succ_mul] at hlt
      omega
    have hturn := commitTurn_fill hready hburst (hq.answers_ok hok)
    rw [if_neg hleft] at hturn
    calc commitLoop (q + 1 + n) s
        = commitLoop (q + (n + 1)) s := by rw [Nat.add_assoc, Nat.add_comm 1 n]
      _ = commitLoop (n + 1) (afterBurst^[q] s) :=
          ih (hle.trans hbytes) (fun _ => Nat.lt_of_le_of_lt hle hlt) hok' (n + 1)
      _ = commitLoop n (afterBurst^[q + 1] s) := by
          rw [commitLoop_of_again hturn, Function.iterate_succ_apply']

/-! ### The last turn of a pass -/

/-- A pass whose turn after `q` bursts leaves the loop. -/
theorem commitPass_of_last_turn {s t : State} (hg : guarded s .storage = false) (hs : PassReady s) {q : Nat}
    (hbytes : q * s.cfg.burst ≤ (available s).length)
    (hroom : 0 < q → q * s.cfg.burst < (s.chan .storage).room)
    (hok : ∀ x ∈ s.oracle.take (q * (s.cfg.burst / wordBytes)), x = BusAnswer.ok)
    (hturn : commitTurn (afterBurst^[q] s).fill = .leave t) : commitPass s = .next t.devHandBack := by
  refine commitPass_of_commitLoop_next hg ?_
  rw [← commitLoop_eq_of_le hs.stagingOk (Nat.le_add_left _ q), commitLoop_bursts hs hbytes hroom hok,
    commitLoop_of_leave hturn]

/-- The pass that runs out of bytes, or had no room, leaves with the rest staged and with the device. -/
theorem commitPass_carriesOver {s : State} (hg : guarded s .storage = false) (hs : PassReady s) {q : Nat}
    (hbytes : q * s.cfg.burst ≤ (available s).length)
    (hroom : 0 < q → q * s.cfg.burst < (s.chan .storage).room)
    (hok : ∀ x ∈ s.oracle.take (q * (s.cfg.burst / wordBytes)), x = BusAnswer.ok)
    (hend : ¬HasBurst (afterBurst^[q] s)) :
    commitPass s = .next (afterBurst^[q] s).fill.devHandBack := by
  have hle : q * s.cfg.burst ≤ (s.chan .storage).room := by
    rcases Nat.eq_zero_or_pos q with rfl | hq
    · rw [Nat.zero_mul]
      exact Nat.zero_le _
    · exact (hroom hq).le
  obtain ⟨-, hready⟩ := burstsCommitted_iterate hs hbytes hle
  have hstop : ¬canCommit (afterBurst^[q] s).fill = true := by
    rw [canCommit_fill_iff hready.stagingOk]
    exact fun ⟨hb, hr⟩ => hend ⟨hb, hr⟩
  exact commitPass_of_last_turn hg hs hbytes hroom hok (if_neg hstop)

/-- The pass whose last burst reaches `limit` completes. -/
theorem commitPass_completes {s : State} (hg : guarded s .storage = false) (hs : PassReady s) {q : Nat}
    (hbytes : (q + 1) * s.cfg.burst ≤ (available s).length)
    (hroom : (q + 1) * s.cfg.burst = (s.chan .storage).room)
    (hok : ∀ x ∈ s.oracle.take ((q + 1) * (s.cfg.burst / wordBytes)), x = BusAnswer.ok) :
    commitPass s = .next (atLimit (afterBurst^[q + 1] s)).devHandBack := by
  have hlt : q * s.cfg.burst < (q + 1) * s.cfg.burst :=
    Nat.mul_lt_mul_of_pos_right (Nat.lt_succ_self q) hs.burst_pos
  obtain ⟨hq, hready⟩ := burstsCommitted_iterate hs (hlt.le.trans hbytes) (hlt.le.trans hroom.le)
  have hburst := hq.hasBurst hs hbytes hroom.le
  have hnone : ((afterBurst (afterBurst^[q] s)).chan .storage).room = 0 := by
    rw [room_afterBurst hready hburst, hq.room (hlt.le.trans hroom.le), hq.cfg, ← hroom, Nat.succ_mul]
    omega
  have hturn := commitTurn_fill hready hburst (hq.answers_ok hok)
  rw [if_pos hnone] at hturn
  rw [Function.iterate_succ_apply']
  exact commitPass_of_last_turn hg hs (hlt.le.trans hbytes) (fun _ => hroom ▸ hlt)
    (fun x hx => hok x (List.take_subset_take_left _ (Nat.mul_le_mul_right _ (Nat.le_succ q)) hx)) hturn

/-- A fault on word `j` of a burst ends the turn, with the words before it written
(42_burst_engine.md R171). -/
theorem commitTurn_fill_fault {s : State} (hs : PassReady s) (hb : HasBurst s) {j : Nat}
    (hj : j < s.cfg.burst / wordBytes) {later : List BusAnswer}
    (ho : s.oracle = List.replicate j .ok ++ .fault :: later) :
    commitTurn s.fill = .leave (faultTransition (turnWritten (wordBytes * j) later s)) := by
  have hwords := hs.words_burst
  have hle : wordBytes * j ≤ s.cfg.burst := by
    rw [← hwords]
    exact Nat.mul_le_mul_left _ hj.le
  have hwrite := writeWords_fault (s.chan .storage).next _ 0 j s.fill later hj ho
  rw [wordsBytes_fill hs.stagingOk hb.bytes hle, Nat.mul_zero, BitVec.add_zero] at hwrite
  exact commitTurn_of_fault (hs.canCommit_fill hb) (hs.not_misaligned hb) hwrite

/-- The faulted pass: `q` bursts moved, then a burst of which `j` words were written. -/
theorem commitPass_faults {s : State} (hg : guarded s .storage = false) (hs : PassReady s) {q j : Nat}
    (hbytes : (q + 1) * s.cfg.burst ≤ (available s).length)
    (hroom : (q + 1) * s.cfg.burst ≤ (s.chan .storage).room) (hj : j < s.cfg.burst / wordBytes)
    {later : List BusAnswer}
    (ho : s.oracle = List.replicate (q * (s.cfg.burst / wordBytes) + j) .ok ++ .fault :: later) :
    commitPass s = .next
      (faultTransition (turnWritten (wordBytes * j) later (afterBurst^[q] s))).devHandBack := by
  have hlt : q * s.cfg.burst < (q + 1) * s.cfg.burst :=
    Nat.mul_lt_mul_of_pos_right (Nat.lt_succ_self q) hs.burst_pos
  obtain ⟨hq, hready⟩ := burstsCommitted_iterate hs (hlt.le.trans hbytes) (hlt.le.trans hroom)
  rw [List.replicate_add, List.append_assoc] at ho
  have hok : ∀ x ∈ s.oracle.take (q * (s.cfg.burst / wordBytes)), x = BusAnswer.ok := by
    rw [ho, List.take_left' List.length_replicate]
    exact fun x hx => List.eq_of_mem_replicate hx
  have hrest : (afterBurst^[q] s).oracle = List.replicate j .ok ++ .fault :: later := by
    rw [hq.oracle, ho, List.drop_left' List.length_replicate]
  exact commitPass_of_last_turn hg hs (hlt.le.trans hbytes) (fun _ => Nat.lt_of_lt_of_le hlt hroom) hok
    (commitTurn_fill_fault hready (hq.hasBurst hs hbytes hroom) (by rwa [hq.cfg]) hrest)

/-! ### The memory and the channel a pass leaves -/

theorem NoFault.answers_ok {s : State} (h : NoFault s) (n : Nat) :
    ∀ x ∈ s.oracle.take n, x = BusAnswer.ok :=
  fun x hx => h x (List.mem_of_mem_take hx)

/-- Memory that took the first `n` bytes holds them and is as before elsewhere (20_memory.md R52). -/
theorem memory_of_writeBytes_take {s t : State} {a : Addr} {bs : List Byte} {n : Nat}
    (hm : s.mem.wf = true) (hn : n ≤ bs.length) (hlt : n ≤ 2 ^ 32)
    (ht : t.mem = writeBytes s.mem a (bs.take n)) :
    HoldsBytes t a (bs.take n) ∧ SameMemoryOutside a n s t := by
  have hlen : (bs.take n).length = n := List.length_take_of_le hn
  refine ⟨holdsBytes_writeBytes hm (hlen.le.trans hlt) ht, ?_⟩
  have houtside := sameMemoryOutside_writeBytes hm (hlen.le.trans hlt) ht
  rwa [hlen] at houtside

/-- After the burst that reaches `limit` the completion reloads or disables (42_burst_engine.md R167 to
R169). -/
theorem BurstsCommitted.chan_atLimit {q : Nat} {s u : State} (h : BurstsCommitted q s u) (hq : 0 < q)
    (hpos : 0 < s.cfg.burst) (hroom : q * s.cfg.burst = (s.chan .storage).room) :
    (atLimit u).chan .storage =
      if (s.chan .storage).supdate then
        { s.chan .storage with
          complete := true, supdate := false, next := (s.chan .storage).start,
          limit := (s.chan .storage).stop }
      else { s.chan .storage with complete := true, enable := false, next := (s.chan .storage).limit } := by
  have hchan := h.chan
  rw [hroom, Channel.next_add_room (hroom ▸ Nat.mul_pos hq hpos)] at hchan
  rw [chan_atLimit_same, hchan]

/-- The number `k` of whole bursts that the bytes and the segment hold is the greatest. -/
theorem whole_bursts_maximal {bytes room burst k : Nat} (hdvd : burst ∣ room)
    (hk : k = min (bytes / burst) (room / burst)) :
    k * burst ≤ bytes ∧ k * burst ≤ room ∧ ¬(burst ≤ bytes - k * burst ∧ 0 < room - k * burst) := by
  have hbytes : k * burst ≤ bytes :=
    (Nat.mul_le_mul_right _ (hk ▸ Nat.min_le_left _ _)).trans (Nat.div_mul_le_self _ _)
  have hroom : k * burst ≤ room :=
    (Nat.mul_le_mul_right _ (hk ▸ Nat.min_le_right _ _)).trans (Nat.div_mul_le_self _ _)
  refine ⟨hbytes, hroom, fun ⟨hb, hr⟩ => ?_⟩
  have hburst : burst ≤ room - k * burst :=
    Nat.le_of_dvd hr (Nat.dvd_sub hdvd (Nat.dvd_mul_left _ _))
  have hpos : 0 < burst := Nat.pos_of_dvd_of_pos hdvd (by omega)
  have hb' : k + 1 ≤ bytes / burst := by
    rw [Nat.le_div_iff_mul_le hpos, Nat.succ_mul]
    omega
  have hr' : k + 1 ≤ room / burst := by
    rw [Nat.le_div_iff_mul_le hpos, Nat.succ_mul]
    omega
  omega

/-! ### The statements -/

/-- Settles O25: the guard is the first test of each of the four calls, but for the test for `storage` of the
two generic ones. -/
theorem disabledChannelsDoNothing : Obligations.DisabledChannelsDoNothing := by
  refine ⟨fun s hguard hen => ⟨?commit, ?flush⟩, fun s ch bytes hch hguard hen => ⟨?read, ?write⟩,
    fun s bytes => ⟨memReadXfer_storage s, memWriteXfer_storage bytes (s.answer .none)⟩⟩
  case commit => exact commitPass_of_guarded (s := s.answer .none) (guarded_iff.2 ⟨hguard, hen⟩)
  case flush => exact flush_of_guarded (s := s.answer .none) (guarded_iff.2 ⟨hguard, hen⟩)
  case read => exact memReadXfer_of_guarded hch (guarded_iff.2 ⟨hguard, hen⟩)
  case write =>
    exact memWriteXfer_of_guarded (s := s.answer .none) bytes hch (guarded_iff.2 ⟨hguard, hen⟩)

/-- Settles O32: the four cases of a flush; the word it writes starts with the staged bytes, and dropping
them from the buffer drops no others. -/
theorem flushWritesOneWord : Obligations.FlushWritesOneWord := by
  refine ⟨fun s hguard hen => ?guarded, fun s hen h => ?nothing, fun s hen hcount hlt hm => ?misaligned,
    fun s hinv ho hen hcount hlt hal hfits => ?writes⟩
  case guarded => exact flush_of_guarded (s := s.answer .none) (guarded_iff.2 ⟨hguard, hen⟩)
  case nothing => exact flush_of_nothing (s := s.answer .none) (not_guarded_iff.2 hen) h
  case misaligned =>
    exact flush_of_misaligned (s := s.answer .none) (not_guarded_iff.2 hen) hcount hlt
      (flushMisaligned_iff.2 hm)
  case writes =>
    have hw : WritesFlushWord (s.answer .none) := ⟨not_guarded_iff.2 hen, hcount, hlt, hal, hfits⟩
    obtain ⟨-, hmem, hstaged, hbuf⟩ := hinv
    have hle : s.staging.count ≤ s.staging.buf.length := hbuf ▸ hstaged
    have hword : wordBytes ≤ 2 ^ 32 := by decide
    refine ⟨_, hw.flush_ok ho, ?held, ?outside, ?chan, ?staging, ?count, rfl, rfl, rfl, rfl, ?others,
      rfl, rfl⟩
    case held =>
      exact (holdsBytes_writeBytes (bs := flushWord (s.answer .none)) hmem hword rfl).of_isPrefix
        (take_stagedBytes_isPrefix_flushWord (s := s.answer .none) hle)
    case outside =>
      exact sameMemoryOutside_writeBytes (bs := flushWord (s.answer .none)) hmem hword rfl
    case chan => exact chan_flushDone_same _
    case staging =>
      calc stagedBytes (stageDrop s.staging (min wordBytes s.staging.count))
          = (stagedBytes s.staging).drop (min wordBytes s.staging.count) :=
            stagedBytes_stageDrop hle (Nat.min_le_right _ _)
        _ = (stagedBytes s.staging).drop wordBytes := by
            rw [List.drop_eq_drop_iff, length_stagedBytes hle, Nat.min_assoc, Nat.min_self]
    case count => rfl
    case others => exact fun k hk => chan_flushDone_ne _ hk

/-- Settles O33: the word is not written and the flush ends with the record of the fault. -/
theorem flushFaultRecordsTheFault : Obligations.FlushFaultRecordsTheFault := by
  intro s later ho hen hcount hlt hal hfits
  have hw : WritesFlushWord (s.answer .none) := ⟨not_guarded_iff.2 hen, hcount, hlt, hal, hfits⟩
  refine ⟨_, hw.flush_fault ho, chan_faultTransition_same _, staging_faultTransition _, fun a => ?memory,
    oracle_faultTransition _, ready_faultTransition _, fun hirq => ?raised, fun hirq l => ?kept,
    fun k hk => chan_faultTransition_ne _ hk, fun l hl => sameOtherLines_faultTransition _ l hl,
    cfg_faultTransition _, pending_faultTransition _⟩
  case memory => rw [mem_faultTransition, State.mem_answer]
  case raised => exact lineAt_faultTransition _ hirq
  case kept =>
    rw [level_faultTransition_of_not_faultIrq]
    · rfl
    · exact hirq

/-- Settles O29: the first turn's fill stages a burst, and the test of R165 comes before its words. -/
theorem misalignedCommitIsRefused : Obligations.MisalignedCommitIsRefused := by
  intro s _ hs hen hfull hlt hm
  refine commitPass_of_misaligned (s := s.answer .none) (not_guarded_iff.2 hen)
    ((canCommit_fill_iff (s := s.answer .none) hs).2 ⟨hfull, Channel.room_pos_iff.2 hlt⟩) ?_
  simpa [commitMisaligned] using hm

/-- Settles O30: every turn that goes on takes a burst, and there are no more bursts than turns. -/
theorem turnBoundNeverCutsAPass : Obligations.TurnBoundNeverCutsAPass :=
  fun _ _ hs hn => commitLoop_eq_of_le hs hn

/-- Settles O26: the bursts before the last turn, then a turn that completes at `limit`, or one that finds no
whole burst or no room. -/
theorem commitPassMovesWholeBursts : Obligations.CommitPassMovesWholeBursts := by
  intro s avail room k hinv hnf hseg hen havail hroom hk
  have hs : PassReady (s.answer .none) := ⟨hinv, hseg⟩
  have hg : guarded (s.answer .none) .storage = false := not_guarded_iff.2 hen
  rw [← Channel.room_eq_ite] at hroom
  obtain ⟨hbytes, hfits, hmax⟩ := whole_bursts_maximal (hroom ▸ hseg.burst_dvd_room) hk
  subst hroom havail
  have hlt : k * s.cfg.burst ≤ 2 ^ 32 := hfits.trans (s.chan .storage).room_lt.le
  have hok := NoFault.answers_ok (s := s.answer .none) hnf
  obtain ⟨hb, hready⟩ := burstsCommitted_iterate hs hbytes hfits
  by_cases hdone : 0 < k ∧ k * s.cfg.burst = (s.chan .storage).room
  · obtain ⟨hpos, hfull⟩ := hdone
    obtain ⟨q, rfl⟩ := Nat.exists_eq_succ_of_ne_zero hpos.ne'
    have hrun := commitPass_completes hg hs hbytes hfull (hok _)
    obtain ⟨hholds, houtside⟩ :=
      memory_of_writeBytes_take hs.mem_wf hbytes hlt ((mem_atLimit _).trans hb.mem)
    have hstaged : stagedBytes (afterBurst^[q + 1] (s.answer .none)).staging = [] := by
      rw [Function.iterate_succ_apply', stagedBytes_afterBurst]
    have hrest := hb.available
    rw [available, hstaged, List.nil_append] at hrest
    obtain ⟨hchans, hlines, hsetting, hdraws, hcalls⟩ := devCommit_frame (s := s) hrun
    refine ⟨_, hrun, hholds, houtside, hchans, hlines, hsetting, hdraws, hcalls, ?_⟩
    rw [if_pos ⟨hpos, hfull⟩]
    refine ⟨hb.chan_atLimit hpos hs.burst_pos hfull, ?staged, ?ready, lineAt_atLimit _⟩
    case staged => rw [State.staging_devHandBack, staging_atLimit, hstaged]
    case ready => exact (ready_atLimit _).trans hrest
  · have hend : ¬HasBurst (afterBurst^[k] (s.answer .none)) := by
      rintro ⟨hbytes', hroom'⟩
      rw [hb.cfg, hb.available, List.length_drop] at hbytes'
      rw [hb.room hfits] at hroom'
      exact hmax ⟨hbytes', hroom'⟩
    have hrun := commitPass_carriesOver hg hs hbytes
      (fun hpos => Nat.lt_of_le_of_ne hfits fun e => hdone ⟨hpos, e⟩) (hok _) hend
    obtain ⟨hholds, houtside⟩ := memory_of_writeBytes_take hs.mem_wf hbytes hlt hb.mem
    obtain ⟨hstaged, hrest, -, -⟩ := fill_spec hready.stagingOk
    rw [hb.available, hb.cfg] at hstaged hrest
    obtain ⟨hchans, hlines, hsetting, hdraws, hcalls⟩ := devCommit_frame (s := s) hrun
    refine ⟨_, hrun, hholds, houtside, hchans, hlines, hsetting, hdraws, hcalls, ?_⟩
    rw [if_neg hdone]
    exact ⟨hb.chan, hstaged, hrest, fun l => congrArg (PerChan.get · l.owner) hb.lines⟩

/-- Settles O27: the bursts before the faulted one, then its turn. -/
theorem commitFaultKeepsWordsAlreadyWritten : Obligations.CommitFaultKeepsWordsAlreadyWritten := by
  intro s avail q j later hinv hseg hen havail hj ho hbytes hfits
  have hs : PassReady (s.answer .none) := ⟨hinv, hseg⟩
  have hg : guarded (s.answer .none) .storage = false := not_guarded_iff.2 hen
  subst havail
  have hroom : (q + 1) * s.cfg.burst ≤ (s.chan .storage).room := Nat.le_sub_of_add_le' hfits
  have hle : q * s.cfg.burst ≤ (q + 1) * s.cfg.burst := Nat.mul_le_mul_right _ (Nat.le_succ q)
  have hwords : q * s.cfg.burst + wordBytes * j ≤ (q + 1) * s.cfg.burst := by
    rw [Nat.succ_mul]
    exact Nat.add_le_add_left ((Nat.mul_le_mul_left _ hj.le).trans (Nat.mul_div_le _ _)) _
  obtain ⟨hb, hready⟩ := burstsCommitted_iterate hs (hle.trans hbytes) (hle.trans hroom)
  have hrun := commitPass_faults hg hs hbytes hroom hj ho
  obtain ⟨hchans, hlines, hsetting, hdraws, hcalls⟩ := devCommit_frame (s := s) hrun
  obtain ⟨hholds, houtside⟩ := memory_of_writeBytes_take hs.mem_wf (hwords.trans hbytes)
    ((hwords.trans hroom).trans (s.chan .storage).room_lt.le)
    ((mem_faultTransition (turnWritten (wordBytes * j) later _)).trans
      (hb.writeBytes_next (hle.trans hbytes) (wordBytes * j)))
  obtain ⟨hstaged, hrest, -, -⟩ := fill_spec hready.stagingOk
  rw [hb.available, hb.cfg] at hstaged hrest
  refine ⟨_, hrun, ?chan, hholds, houtside, ?staged, ?ready, oracle_faultTransition _,
    hchans, hlines, hsetting, hdraws, hcalls, fun hirq => ?raised, fun hirq l => ?kept⟩
  case chan =>
    rw [State.chan_devHandBack, chan_faultTransition_same]
    exact congrArg (fun c => { c with enable := false, complete := true, busexc := true }) hb.chan
  case staged => rw [State.staging_devHandBack, staging_faultTransition]; exact hstaged
  case ready => rw [State.ready_devHandBack, ready_faultTransition]; exact hrest
  case raised => exact lineAt_faultTransition _ ((congrArg (·.faultIrq) hb.cfg).trans hirq)
  case kept =>
    rw [State.level_devHandBack, level_faultTransition_of_not_faultIrq]
    · exact congrArg (PerChan.get · l.owner) hb.lines
    · exact (congrArg (·.faultIrq) hb.cfg).trans hirq

/-- Settles O28, as the case of O26 in which the bytes fill the segment. -/
theorem completionReloadsOnceOrDisables : Obligations.CompletionReloadsOnceOrDisables := by
  intro s hinv hnf hseg hen hlt hfull
  have hroom : 0 < (s.chan .storage).room := Channel.room_pos_iff.2 hlt
  rw [Channel.toNat_limit_sub_next hroom] at hfull
  have hdvd := hseg.burst_dvd_room
  have hk : (s.chan .storage).room / s.cfg.burst =
      min ((available s).length / s.cfg.burst) ((s.chan .storage).room / s.cfg.burst) :=
    (Nat.min_eq_right (Nat.div_le_div_right hfull)).symm
  have hpos : 0 < (s.chan .storage).room / s.cfg.burst :=
    Nat.div_pos (Nat.le_of_dvd hroom hdvd) (Nat.pos_of_dvd_of_pos hdvd hroom)
  obtain ⟨t, hrun, -, -, -, -, -, -, -, hend⟩ := commitPassMovesWholeBursts s (available s)
    (s.chan .storage).room _ hinv hnf hseg hen rfl (Channel.room_eq_ite _) hk
  rw [if_pos ⟨hpos, Nat.div_mul_cancel hdvd⟩] at hend
  obtain ⟨hchan, -⟩ := hend
  refine ⟨t, hrun, ?_⟩
  rw [hchan]
  cases hsup : (s.chan .storage).supdate <;> simp [hsup]

end Sys2Proof.Machine

/-! PROOF. The generic block transfer (43_block_transfer.md R190 to R201): the block a memory read returns,
where a memory write puts its bytes, whole or split at `limit`, what both leave, and what is refused. -/

namespace Sys2Proof.Machine

/-! ### The line at a completion -/

theorem sameOtherLines_readDone (ch : Chan) (s : State) : SameOtherLines ch s (readDone ch s) := by
  intro l hl
  rw [level_readDone, if_neg hl]

theorem lineAt_readDone (ch : Chan) (s : State) : LineAt ch true (readDone ch s) := by
  intro l hl
  rw [cfg_readDone] at hl
  rw [level_readDone, if_pos hl]

theorem sameOtherLines_writeDone (ch : Chan) (n : Word) (s : State) :
    SameOtherLines ch s (writeDone ch n s) := by
  intro l hl
  rw [level_writeDone, if_neg hl]

theorem lineAt_writeDone (ch : Chan) (n : Word) (s : State) : LineAt ch true (writeDone ch n s) := by
  intro l hl
  rw [cfg_writeDone] at hl
  rw [level_writeDone, if_pos hl]

/-! ### Memory reads -/

theorem memReadXfer_of_underflow {s : State} {ch : Chan} (hch : ch ≠ .storage)
    (hg : guarded s ch = false)
    (h : (s.chan ch).limit.toNat < (sizePointer s.cfg ch (s.chan ch)).toNat) :
    memReadXfer ch s = .refused .underflow := by
  simp [memReadXfer, hch, hg, BitVec.ult, h]

/-- A size that is not negative is read (43_block_transfer.md R192, R193). -/
theorem memReadXfer_of_le {s : State} {ch : Chan} (hch : ch ≠ .storage) (hg : guarded s ch = false)
    (h : (sizePointer s.cfg ch (s.chan ch)).toNat ≤ (s.chan ch).limit.toNat) :
    memReadXfer ch s = .next ((readDone ch (alignmentLog ch (baseOf (s.chan ch)) s)).answer
      (.block ((s.chan ch).limit - sizePointer s.cfg ch (s.chan ch))
        (readBytes s.mem (baseOf (s.chan ch))
          ((s.chan ch).limit - sizePointer s.cfg ch (s.chan ch)).toNat))) := by
  simp [memReadXfer, hch, hg, BitVec.ult, h]

/-- A memory read, guarded or not, is its own channel's affair and uses none of the accessor's answers. -/
theorem memReadXfer_onlyChannel {ch : Chan} {s t : State} (h : memReadXfer ch s = .next t) :
    OnlyChannel ch s t := by
  obtain ⟨hstaging, hready, hdraws⟩ := memReadXfer_sameStaging h
  have hmem : SameMemory s t := fun a => by rw [memReadXfer_mem h]
  have hsetting := memReadXfer_sameSetting h
  obtain ⟨-, ⟨-, rfl⟩ | ⟨-, -, rfl⟩⟩ := memReadXfer_next h
  · exact ⟨fun _ _ => rfl, fun _ _ => rfl, hstaging, hmem, ⟨hready, rfl, hdraws⟩, hsetting⟩
  · refine ⟨fun k hk => ?channels, fun l hl => ?lines, hstaging, hmem, ⟨hready, ?oracle, hdraws⟩,
      hsetting⟩
    case channels => rw [State.chan_answer, chan_readDone_ne _ _ hk, chan_alignmentLog]
    case lines =>
      rw [State.level_answer, sameOtherLines_readDone ch _ l (by rwa [cfg_alignmentLog]),
        level_alignmentLog]
    case oracle => rw [State.oracle_answer, oracle_readDone, oracle_alignmentLog]

/-! ### Where a memory write puts its bytes -/

/-- A write of `n` bytes stays in one piece: at `next`, or at `init` and within `limit`
(43_block_transfer.md R194). -/
def Channel.OnePiece (c : Channel) (n : Nat) : Prop :=
  c.init = 0 ∨ c.init ≠ 0 ∧ c.init.toNat + n ≤ c.limit.toNat

/-- A write of `n` bytes is split at `limit` (43_block_transfer.md R195). -/
structure Channel.Splits (c : Channel) (n : Nat) : Prop where
  seeded : c.init ≠ 0
  ordered : c.init.toNat ≤ c.limit.toNat
  exceeds : c.limit.toNat - c.init.toNat < n

/-- Where no underflow refuses it, a write is split or not. -/
theorem Channel.onePiece_or_splits {c : Channel} (n : Nat)
    (h : c.init = 0 ∨ c.init.toNat ≤ c.limit.toNat) : c.OnePiece n ∨ c.Splits n := by
  by_cases hi : c.init = 0
  · exact .inl (.inl hi)
  · have hle : c.init.toNat ≤ c.limit.toNat := h.resolve_left hi
    rcases Nat.lt_or_ge (c.limit.toNat - c.init.toNat) n with hn | hn
    · exact .inr ⟨hi, hle, hn⟩
    · exact .inl (.inr ⟨hi, by omega⟩)

theorem Channel.toNat_limit_sub_init {c : Channel} (h : c.init.toNat ≤ c.limit.toNat) :
    (c.limit - c.init).toNat = c.limit.toNat - c.init.toNat :=
  BitVec.toNat_sub_of_le (BitVec.le_def.2 h)

theorem baseOf_of_init_eq_zero {c : Channel} (h : c.init = 0) : baseOf c = c.next :=
  if_neg (not_not.2 h)

theorem baseOf_of_init_ne_zero {c : Channel} (h : c.init ≠ 0) : baseOf c = c.init := if_pos h

theorem not_ult_of_toNat_le {a b : Word} (h : a.toNat ≤ b.toNat) : ¬b.ult a = true := by
  simpa [BitVec.ult] using h

theorem blockWrites_of_underflow {c : Channel} (bytes : List Byte) (s : State) (hi : c.init ≠ 0)
    (h : c.limit.toNat < c.init.toNat) : blockWrites c bytes s = none := by
  rw [blockWrites, if_pos hi, if_pos (by simpa [BitVec.ult] using h)]

theorem blockWrites_of_onePiece {c : Channel} {bytes : List Byte} (s : State)
    (h : c.OnePiece bytes.length) : blockWrites c bytes s = some (memWrite (baseOf c) bytes s) := by
  rcases h with hi | ⟨hi, hfits⟩
  · simp [blockWrites, hi, baseOf_of_init_eq_zero hi]
  · have hle : c.init.toNat ≤ c.limit.toNat := by omega
    have hroom : ¬(c.limit - c.init).toNat < bytes.length := by
      rw [Channel.toNat_limit_sub_init hle]
      omega
    rw [baseOf_of_init_ne_zero hi, blockWrites, if_pos hi, if_neg (not_ult_of_toNat_le hle)]
    exact if_neg hroom

/-- A split starts with the write up to `limit`, and a fault there ends it (43_block_transfer.md R195, R201). -/
theorem blockWrites_of_splits_fault {c : Channel} {bytes : List Byte} {s u : State} {a : Addr}
    (h : c.Splits bytes.length)
    (hw : memWrite c.init (bytes.take (c.limit.toNat - c.init.toNat)) s = .busFault a u) :
    blockWrites c bytes s = some (.busFault a u) := by
  obtain ⟨hi, hle, hroom⟩ := h
  rw [← Channel.toNat_limit_sub_init hle] at hroom hw
  simp only [blockWrites, if_pos hi, if_neg (not_ult_of_toNat_le hle), if_pos hroom, hw]

/-- A split whose first write succeeds goes on with the residual at `start` (43_block_transfer.md R195). -/
theorem blockWrites_of_splits_ok {c : Channel} {bytes : List Byte} {s u : State}
    (h : c.Splits bytes.length)
    (hw : memWrite c.init (bytes.take (c.limit.toNat - c.init.toNat)) s = .ok u) :
    blockWrites c bytes s =
      some (memWrite c.start (bytes.drop (c.limit.toNat - c.init.toNat)) u) := by
  obtain ⟨hi, hle, hroom⟩ := h
  rw [← Channel.toNat_limit_sub_init hle] at hroom hw ⊢
  simp only [blockWrites, if_pos hi, if_neg (not_ult_of_toNat_le hle), if_pos hroom, hw]

/-- A fault on the first write, whichever that is, ends the writes. -/
theorem blockWrites_of_fault_first {c : Channel} (bytes : List Byte) {s : State}
    {later : List BusAnswer} (hle : c.init = 0 ∨ c.init.toNat ≤ c.limit.toNat)
    (ho : s.oracle = .fault :: later) : ∃ a u, blockWrites c bytes s = some (.busFault a u) := by
  rcases Channel.onePiece_or_splits bytes.length hle with h | h
  · exact ⟨_, _, (blockWrites_of_onePiece s h).trans (congrArg some (memWrite_fault _ _ ho))⟩
  · exact ⟨_, _, blockWrites_of_splits_fault h (memWrite_fault _ _ ho)⟩

theorem blockWrites_of_fault_second {c : Channel} {bytes : List Byte} {s : State}
    {later : List BusAnswer} (h : c.Splits bytes.length) (ho : s.oracle = .ok :: .fault :: later) :
    ∃ a u, blockWrites c bytes s = some (.busFault a u) := by
  have hfirst := blockWrites_of_splits_ok h (memWrite_ok (s := s) _ _ (by simp [ho]))
  exact ⟨_, _, hfirst.trans (congrArg some (memWrite_fault _ _ (congrArg List.tail ho)))⟩

/-- Writes that succeed change memory and use up answers, nothing else. -/
theorem blockWrites_ok_eq {c : Channel} {bytes : List Byte} {s u : State}
    (h : blockWrites c bytes s = some (.ok u)) : ∃ m o, u = { s with mem := m, oracle := o } := by
  rcases blockWrites_ok h with ⟨-, e⟩ | ⟨-, -, -, e⟩ | ⟨-, -, -, e⟩ <;> exact ⟨_, _, e⟩

/-! ### From the writes to the transfer -/

theorem memWriteXfer_of_underflow {s : State} {ch : Chan} {bytes : List Byte} (hch : ch ≠ .storage)
    (hg : guarded s ch = false)
    (h : blockWrites (s.chan ch) bytes (alignmentLog ch (baseOf (s.chan ch)) s) = none) :
    memWriteXfer ch bytes s = .refused .underflow := by
  simp [memWriteXfer, hch, hg, h]

theorem memWriteXfer_of_busFault {s : State} {ch : Chan} {bytes : List Byte} (hch : ch ≠ .storage)
    (hg : guarded s ch = false)
    (h : ∃ a u, blockWrites (s.chan ch) bytes (alignmentLog ch (baseOf (s.chan ch)) s) =
      some (.busFault a u)) :
    memWriteXfer ch bytes s = .refused .genericBusFault := by
  obtain ⟨a, u, h⟩ := h
  simp [memWriteXfer, hch, hg, h]

theorem memWriteXfer_of_ok {s u : State} {ch : Chan} {bytes : List Byte} (hch : ch ≠ .storage)
    (hg : guarded s ch = false)
    (h : blockWrites (s.chan ch) bytes (alignmentLog ch (baseOf (s.chan ch)) s) = some (.ok u)) :
    memWriteXfer ch bytes s = .next (writeDone ch (BitVec.ofNat 32 bytes.length) u) := by
  simp [memWriteXfer, hch, hg, h]

theorem NoFault.head_ne_fault {s : State} (h : NoFault s) : s.oracle.head? ≠ some .fault :=
  fun e => BusAnswer.noConfusion (h _ (List.mem_of_head? e))

theorem NoFault.tail {s : State} (h : NoFault s) (m : Memory) :
    NoFault { s with mem := m, oracle := s.oracle.tail } :=
  fun x hx => h x (List.mem_of_mem_tail hx)

theorem NoFault.alignmentLog {s : State} (h : NoFault s) (ch : Chan) (a : Addr) :
    NoFault (alignmentLog ch a s) := by
  intro x hx
  rw [oracle_alignmentLog] at hx
  exact h x hx

/-- The memory after a write in one piece (43_block_transfer.md R194). -/
theorem memWriteXfer_of_onePiece {s : State} {ch : Chan} {bytes : List Byte} (hch : ch ≠ .storage)
    (hg : guarded s ch = false) (hnf : NoFault s) (h : (s.chan ch).OnePiece bytes.length) :
    ∃ t, memWriteXfer ch bytes s = .next t ∧
      t.mem = writeBytes s.mem (baseOf (s.chan ch)) bytes := by
  have hnf := hnf.alignmentLog ch (baseOf (s.chan ch))
  have hw := (blockWrites_of_onePiece _ h).trans (congrArg some (memWrite_ok _ _ hnf.head_ne_fault))
  exact ⟨_, memWriteXfer_of_ok hch hg hw, by rw [mem_writeDone, mem_alignmentLog]⟩

/-- The memory after a split write: the residual is written over the first part (43_block_transfer.md R195). -/
theorem memWriteXfer_of_splits {s : State} {ch : Chan} {bytes : List Byte} (hch : ch ≠ .storage)
    (hg : guarded s ch = false) (hnf : NoFault s) (h : (s.chan ch).Splits bytes.length) :
    ∃ t, memWriteXfer ch bytes s = .next t ∧
      t.mem = writeBytes
        (writeBytes s.mem (s.chan ch).init
          (bytes.take ((s.chan ch).limit.toNat - (s.chan ch).init.toNat)))
        (s.chan ch).start (bytes.drop ((s.chan ch).limit.toNat - (s.chan ch).init.toNat)) := by
  have hnf := hnf.alignmentLog ch (baseOf (s.chan ch))
  have hw := (blockWrites_of_splits_ok h (memWrite_ok _ _ hnf.head_ne_fault)).trans
    (congrArg some (memWrite_ok _ _ (hnf.tail _).head_ne_fault))
  exact ⟨_, memWriteXfer_of_ok hch hg hw, by rw [mem_writeDone, mem_alignmentLog]⟩

/-! ### The bytes of a split write -/

/-- A byte of the first part reads back where the residual does not reach it. -/
theorem readByte_splitWrite_first {m : Memory} (hm : m.wf = true) {a b : Addr} {bytes : List Byte}
    (hl : bytes.length ≤ 2 ^ 32) {k i : Nat} (hi : i < k) (hi' : i < bytes.length)
    (hb : bytes.length - k ≤ (a + BitVec.ofNat 32 i - b).toNat) :
    readByte (writeBytes (writeBytes m a (bytes.take k)) b (bytes.drop k)) (a + BitVec.ofNat 32 i) =
      bytes[i] := by
  have hfirst : i < (bytes.take k).length := List.length_take ▸ Nat.lt_min.2 ⟨hi, hi'⟩
  calc readByte (writeBytes (writeBytes m a (bytes.take k)) b (bytes.drop k)) (a + BitVec.ofNat 32 i)
      = readByte (writeBytes m a (bytes.take k)) (a + BitVec.ofNat 32 i) :=
        readByte_writeBytes_outside (wf_writeBytes hm _ _) b _
          ((List.drop_sublist _ _).length_le.trans hl) (by rwa [List.length_drop])
    _ = (bytes.take k)[i] :=
        readByte_writeBytes_inside hm a _ ((List.take_sublist _ _).length_le.trans hl) hfirst
    _ = bytes[i] := List.getElem_take

theorem readByte_splitWrite_outside {m : Memory} (hm : m.wf = true) {a b x : Addr} {bytes : List Byte}
    (hl : bytes.length ≤ 2 ^ 32) {k : Nat} (ha : k ≤ (x - a).toNat)
    (hb : bytes.length - k ≤ (x - b).toNat) :
    readByte (writeBytes (writeBytes m a (bytes.take k)) b (bytes.drop k)) x = readByte m x := by
  rw [readByte_writeBytes_outside (wf_writeBytes hm _ _) b _ ((List.drop_sublist _ _).length_le.trans hl)
      (by rwa [List.length_drop]),
    readByte_writeBytes_outside hm a _ ((List.take_sublist _ _).length_le.trans hl)
      ((List.length_take_le _ _).trans ha)]

/-! ### What a memory write leaves but for memory -/

/-- The channel after a memory write: the pointers reload unless chaining holds them (43_block_transfer.md
R196 to R199). -/
theorem writeDoneFields_eq (ch : Chan) (nb n : Word) (c : Channel) :
    writeDoneFields ch nb n c =
      { c with
        init := 0, savedNext := nb, savedLimit := nb + n, complete := true
        next := if c.supdate = false ∨ ch = .netRx then c.start else c.next
        limit := if c.supdate = false ∨ ch = .netRx then c.stop else c.limit } := by
  unfold writeDoneFields
  split <;> simp [*]

/-- A memory write of `n` bytes went through: the channel has its completion, its line is high, and the
reply, the staging buffer, the other channels and lines and the setting are as before (43_block_transfer.md R196
to R199). -/
structure WriteCompleted (ch : Chan) (n : Nat) (s t : State) : Prop where
  chan : t.chan ch = writeDoneFields ch (s.chan ch).next (BitVec.ofNat 32 n) (s.chan ch)
  reply : t.reply = s.reply
  staging : SameStaging s t
  channels : SameOtherChannels ch s t
  lines : SameOtherLines ch s t
  line : LineAt ch true t
  setting : SameSetting s t

theorem memWriteXfer_writeCompleted {ch : Chan} {bytes : List Byte} {s t : State}
    (hg : guarded s ch = false) (h : memWriteXfer ch bytes s = .next t) :
    WriteCompleted ch bytes.length s t := by
  have hstaging := memWriteXfer_sameStaging h
  have hsetting := memWriteXfer_sameSetting h
  obtain ⟨-, ⟨hg', -⟩ | ⟨-, u, hu, rfl⟩⟩ := memWriteXfer_next h
  · rw [hg] at hg'
    cases hg'
  · obtain ⟨m, o, rfl⟩ := blockWrites_ok_eq hu
    refine ⟨?chan, ?reply, hstaging, fun k hk => ?channels, fun l hl => ?lines, lineAt_writeDone _ _ _,
      hsetting⟩
    case chan => rw [chan_writeDone_same, chan_setMem, chan_alignmentLog]
    case reply => rw [reply_writeDone, reply_alignmentLog]
    case channels => rw [chan_writeDone_ne _ _ _ hk, chan_setMem, chan_alignmentLog]
    case lines =>
      rw [sameOtherLines_writeDone ch _ _ l (by rwa [cfg_alignmentLog]), level_setMem,
        level_alignmentLog]

/-! ### The statements -/

/-- Settles O35: the two sides of the size test; the read touches only its channel. -/
theorem memoryReadReturnsTheBlock : Obligations.MemoryReadReturnsTheBlock := by
  intro s ch base x hch hen hbase hx
  have hg : guarded s ch = false := not_guarded_iff.2 hen
  obtain rfl : base = baseOf (s.chan ch) := hbase
  obtain rfl : x = sizePointer s.cfg ch (s.chan ch) := hx
  refine ⟨memReadXfer_of_underflow hch hg, fun hle => ?_⟩
  have hrun := memReadXfer_of_le hch hg hle
  refine ⟨_, _, hrun, rfl, length_readBytes _ _ _, fun n hn => getElem_readBytes _ _ _ n hn, ?chan,
    memReadXfer_onlyChannel hrun, lineAt_readDone ch _⟩
  rw [State.chan_answer, chan_readDone_same, chan_alignmentLog]

/-- Settles O36: both forms of the premise are a write at the base address in one piece. -/
theorem memoryWriteInOnePiece : Obligations.MemoryWriteInOnePiece := by
  rintro s ch bytes base ⟨-, hmem, -⟩ hnf hch hen hlen hplace
  have hg : guarded (s.answer .none) ch = false := not_guarded_iff.2 hen
  obtain ⟨rfl, hpiece⟩ : base = baseOf (s.chan ch) ∧ (s.chan ch).OnePiece bytes.length := by
    rcases hplace with ⟨hi, hbase⟩ | ⟨hi, hbase, hfits⟩
    · exact ⟨hbase.trans (baseOf_of_init_eq_zero hi).symm, .inl hi⟩
    · exact ⟨hbase.trans (baseOf_of_init_ne_zero hi).symm, .inr ⟨hi, hfits⟩⟩
  obtain ⟨t, hrun, ht⟩ := memWriteXfer_of_onePiece (s := s.answer .none) hch hg hnf hpiece
  obtain ⟨hchan, hreply, ⟨hstaging, hready, hdraws⟩, hchans, hlines, hline, hsetting⟩ :=
    memWriteXfer_writeCompleted hg hrun
  exact ⟨t, hrun, holdsBytes_writeBytes hmem hlen.le ht, sameMemoryOutside_writeBytes hmem hlen.le ht,
    hchan.trans (writeDoneFields_eq _ _ _ _), hreply, hstaging, hready, hdraws, hchans, hlines, hline,
    hsetting⟩

/-- Settles O37: reads through the residual's write come first, then through the first part's. -/
theorem memoryWriteSplitsAtLimit : Obligations.MemoryWriteSplitsAtLimit := by
  rintro s ch bytes room ⟨-, hmem, -⟩ hnf hch hen hlen hi hle rfl hlt
  have hg : guarded (s.answer .none) ch = false := not_guarded_iff.2 hen
  obtain ⟨t, hrun, ht⟩ := memWriteXfer_of_splits (s := s.answer .none) hch hg hnf ⟨hi, hle, hlt⟩
  obtain ⟨hchan, hreply, ⟨hstaging, hready, hdraws⟩, hchans, hlines, hline, hsetting⟩ :=
    memWriteXfer_writeCompleted hg hrun
  refine ⟨t, hrun, ?residual, ?first, ?outside, hchan.trans (writeDoneFields_eq _ _ _ _), hreply,
    hstaging, hready, hdraws, hchans, hlines, hline, hsetting⟩
  case residual =>
    exact holdsBytes_writeBytes (wf_writeBytes hmem _ _)
      ((List.drop_sublist _ _).length_le.trans hlen.le) ht
  case first =>
    intro n hn hn' hb
    rw [ht]
    exact readByte_splitWrite_first hmem hlen.le hn hn' hb
  case outside =>
    intro a ha hb
    rw [ht]
    exact readByte_splitWrite_outside hmem hlen.le ha hb

/-- Settles O38: the underflow, and a fault on the first write and on the second. -/
theorem memoryWriteRefusals : Obligations.MemoryWriteRefusals := by
  refine ⟨fun s ch bytes hch hen hi hlt => ?underflow, fun s ch bytes later hch hen ho hle => ?first,
    fun s ch bytes later hch hen ho hi hle hlt => ?second⟩
  case underflow =>
    exact memWriteXfer_of_underflow (s := s.answer .none) hch (not_guarded_iff.2 hen)
      (blockWrites_of_underflow _ _ hi hlt)
  case first =>
    exact memWriteXfer_of_busFault (s := s.answer .none) hch (not_guarded_iff.2 hen)
      (blockWrites_of_fault_first _ hle ((oracle_alignmentLog _ _ _).trans ho))
  case second =>
    exact memWriteXfer_of_busFault (s := s.answer .none) hch (not_guarded_iff.2 hen)
      (blockWrites_of_fault_second ⟨hi, hle, hlt⟩ ((oracle_alignmentLog _ _ _).trans ho))

/-- Settles O39, from the channel that every completed write leaves. -/
theorem receivedSizeIsTheSnapshotDifference : Obligations.ReceivedSizeIsTheSnapshotDifference := by
  intro s t ch bytes hlen hen h
  have hdone : WriteCompleted ch bytes.length (s.answer .none) t :=
    memWriteXfer_writeCompleted (not_guarded_iff.2 hen) h
  have hchan := hdone.chan.trans (writeDoneFields_eq _ _ _ _)
  rw [hchan]
  exact ⟨rfl, rfl, add_ofNat_sub_self _ hlen, rfl, rfl⟩

end Sys2Proof.Machine

/-! PROOF. Exceptions (60_exceptions.md R210 to R223): when a line rises and falls, that the channels are
independent, and which operation is refused for which reason. -/

namespace Sys2Proof.Machine

/-! ### The channel of a CSR write -/

theorem targetOf_of_csrWriteOf {cfg : Config} {i : Instr} {c : Command} {ch : Chan} {v : CsrValue}
    (h : csrWriteOf cfg i = some (c, ch, v)) : targetOf cfg i = some ch := by
  unfold csrWriteOf at h
  split at h
  · next hk =>
    cases h
    simp [targetOf, hk]
  · next hk =>
    split at h
    · next hd =>
      cases h
      simp [targetOf, hk, hd]
    · cases h
  · cases h

/-! ### Lines that device calls raise -/

/-- From `s` to `t` no line falls, and a line that changed is the one of `ch`, which is then complete: the
line was raised at a completion or with the record of a fault (60_exceptions.md R216). -/
def RaisesWhenComplete (ch : Chan) (s t : State) : Prop :=
  t.cfg = s.cfg ∧ ∀ l, t.level l = s.level l ∨
    s.cfg.irq.get ch = some l ∧ t.level l = true ∧ (t.chan ch).complete = true

theorem RaisesWhenComplete.of_level_eq {ch : Chan} {s t : State} (hcfg : t.cfg = s.cfg)
    (h : ∀ l, t.level l = s.level l) : RaisesWhenComplete ch s t :=
  ⟨hcfg, fun l => .inl (h l)⟩

/-- The line of `ch` raised by a part that completes `ch`, and by no other change of a line, keeps the
discipline whatever went before. -/
theorem RaisesWhenComplete.raise {ch : Chan} {s u t : State} (hu : RaisesWhenComplete ch s u)
    (hcfg : t.cfg = u.cfg) (hcomplete : (t.chan ch).complete = true)
    (hlevel : ∀ l, t.level l = u.level l ∨ u.cfg.irq.get ch = some l ∧ t.level l = true) :
    RaisesWhenComplete ch s t := by
  obtain ⟨hcfgu, hlines⟩ := hu
  refine ⟨hcfg.trans hcfgu, fun l => ?_⟩
  rcases hlevel l with same | ⟨hl, high⟩
  · rcases hlines l with same' | ⟨hl, high, -⟩
    · exact .inl (same.trans same')
    · exact .inr ⟨hl, same.trans high, hcomplete⟩
  · exact .inr ⟨hcfgu ▸ hl, high, hcomplete⟩

/-- A level raised under a condition is as before, or the condition holds and it is high. -/
theorem raisedIf_same_or_high {raised own : Prop} [Decidable raised] (before : Bool) (h : raised → own) :
    (if raised then true else before) = before ∨ own ∧ (if raised then true else before) = true := by
  split
  · next hraised => exact .inr ⟨h hraised, rfl⟩
  · exact .inl rfl

theorem RaisesWhenComplete.atLimit {s u : State} (h : RaisesWhenComplete .storage s u) :
    RaisesWhenComplete .storage s (atLimit u) :=
  h.raise (cfg_atLimit u) (by rw [chan_atLimit_same]; split <;> rfl) fun l => by
    rw [level_atLimit]
    exact raisedIf_same_or_high _ id

theorem RaisesWhenComplete.faultTransition {s u : State} (h : RaisesWhenComplete .storage s u) :
    RaisesWhenComplete .storage s (faultTransition u) :=
  h.raise (cfg_faultTransition u) (by rw [chan_faultTransition_same]) fun l => by
    rw [level_faultTransition]
    exact raisedIf_same_or_high _ And.right

theorem RaisesWhenComplete.burstDone {s u : State} (h : RaisesWhenComplete .storage s u) :
    RaisesWhenComplete .storage s (burstDone u) := by
  obtain ⟨hcfg, hlines⟩ := h
  refine ⟨(cfg_burstDone u).trans hcfg, fun l => ?_⟩
  rw [level_burstDone, chan_burstDone_same]
  exact hlines l

theorem commitPass_raisesWhenComplete {s t : State} (h : commitPass s = .next t) :
    RaisesWhenComplete .storage s t :=
  commitPass_invariant (RaisesWhenComplete .storage s) (fun _ _ hu => hu) (fun _ hu => hu)
    (fun _ _ _ _ hu => hu) (fun _ _ hu => hu) (fun _ hu => hu.burstDone) (fun _ hu => hu.atLimit)
    (fun _ hu => hu.faultTransition) (.of_level_eq rfl fun _ => rfl) h

theorem memWrite_level (a : Addr) (bs : List Byte) (s : State) :
    (∀ t, memWrite a bs s = .ok t → ∀ l, t.level l = s.level l) ∧
      ∀ b t, memWrite a bs s = .busFault b t → ∀ l, t.level l = s.level l := by
  rcases memWrite_cases a bs s with h | ⟨-, h⟩ <;> rw [h]
  · exact ⟨fun t e l => by cases e; rfl, fun b t e => nomatch e⟩
  · exact ⟨fun t e => (nomatch e), fun b t e l => by cases e; rfl⟩

/-- A flush keeps every line, or records a fault, which may raise its own (42_burst_engine.md R173, R174). -/
theorem flush_level {s t : State} (h : flush s = .next t) :
    (∀ l, t.level l = s.level l) ∨
      (RaisesWhenComplete .storage s t ∧ (t.chan .storage).busexc = true) := by
  have hlevel := memWrite_level (s.chan .storage).next (flushWord s)
    { s with draws := s.draws + flushPad s.staging }
  rcases flush_next h with ⟨-, rfl⟩ | ⟨-, -, rfl⟩ | ⟨-, -, u, hu, rfl⟩ | ⟨-, -, a, u, hu, rfl⟩
  · exact .inl fun _ => rfl
  · exact .inl fun _ => rfl
  · exact .inl (hlevel.1 u hu)
  · have hraises : RaisesWhenComplete .storage s u :=
      .of_level_eq ((memWrite_sameSetting _ _ _).2 a u hu).1 (hlevel.2 a u hu)
    exact .inr ⟨hraises.faultTransition, by rw [chan_faultTransition_same]⟩

theorem memReadXfer_raisesWhenComplete {ch : Chan} {s t : State} (h : memReadXfer ch s = .next t) :
    RaisesWhenComplete ch s t := by
  obtain ⟨-, ⟨-, rfl⟩ | ⟨-, -, rfl⟩⟩ := memReadXfer_next h
  · exact .of_level_eq rfl fun _ => rfl
  · have hlog : RaisesWhenComplete ch s (alignmentLog ch (baseOf (s.chan ch)) s) :=
      .of_level_eq (cfg_alignmentLog s ch _) (level_alignmentLog s ch _)
    refine hlog.raise (by simp) (by simp) fun l => ?_
    rw [State.level_answer, level_readDone]
    exact raisedIf_same_or_high _ id

theorem memWriteXfer_raisesWhenComplete {ch : Chan} {bytes : List Byte} {s t : State}
    (h : memWriteXfer ch bytes s = .next t) : RaisesWhenComplete ch s t := by
  obtain ⟨-, ⟨-, rfl⟩ | ⟨-, u, hu, rfl⟩⟩ := memWriteXfer_next h
  · exact .of_level_eq rfl fun _ => rfl
  · obtain ⟨m, o, rfl⟩ := blockWrites_ok_eq hu
    have hwritten : RaisesWhenComplete ch s
        { alignmentLog ch (baseOf (s.chan ch)) s with mem := m, oracle := o } :=
      .of_level_eq (cfg_alignmentLog s ch _) (level_alignmentLog s ch _)
    refine hwritten.raise (cfg_writeDone _ _ _) (by rw [chan_writeDone_same, writeDoneFields_eq])
      fun l => ?_
    rw [level_writeDone]
    exact raisedIf_same_or_high _ id

/-! ### The lines after an operation -/

/-- A command drives no line but its channel's: only the pass of two commands on `storage` drives any. -/
theorem commandEffect_sameOtherLines {c : Command} {ch : Chan} {s t : State}
    (h : commandEffect c ch s = .next t) : SameOtherLines ch s t := by
  intro l hl
  rcases commandEffect_next h with ⟨m, rfl⟩ | ⟨f, -, rfl | ⟨-, rfl⟩ | ⟨-, hp⟩⟩
  · rfl
  · rfl
  · exact level_doInitBuf _ ch l
  · rcases passOnStorage_next hp with ⟨rfl, hc⟩ | ⟨-, rfl⟩
    · exact commitPass_sameOtherLines hc l hl
    · rfl

/-- The operation is a device call on the channel of the line `l`, which it leaves complete, a flush with the
record of a fault (60_exceptions.md R216). -/
def CompletesOnLine (i : Instr) (s t : State) (l : IrqLine) : Prop :=
  ∃ ch, targetOf s.cfg i = some ch ∧ s.cfg.irq.get ch = some l ∧ (t.chan ch).complete = true ∧
    (kindOf i = .commit ∨ kindOf i = .flush ∧ (t.chan ch).busexc = true ∨ kindOf i = .blockRead ch ∨
      ∃ bytes, kindOf i = .blockWrite ch bytes)

/-- Everything an operation can do to a line: keep it, release it as a CSR write to its channel, or raise it
as a device call that completes its channel (60_exceptions.md R216, R217). -/
theorem exec_level_cases {i : Instr} {s t : State} (h : exec i s = .next t) (l : IrqLine) :
    t.level l = s.level l ∨
    (t.level l = false ∧ ∃ c ch v, csrWriteOf s.cfg i = some (c, ch, v) ∧ s.cfg.irq.get ch = some l) ∨
    (t.level l = true ∧ CompletesOnLine i s t l) := by
  rcases exec_next_cases h with ⟨_, _, _, _, -, rfl⟩ | ⟨_, _, -, -, rfl⟩ | ⟨_, _, _, _, -, -, -, rfl⟩ |
    ⟨c, ch, v, u, hw, -, hu, rfl⟩ | ⟨hk, hc⟩ | ⟨hk, hc⟩ | ⟨ch, hk, hc⟩ | ⟨ch, bs, hk, hc⟩ | ⟨-, rfl⟩
  · exact .inl rfl
  · exact .inl rfl
  · exact .inl rfl
  · have hcfg := csrEffect_cfg hu
    by_cases hl : s.cfg.irq.get ch = some l
    · exact .inr (.inl ⟨lineAt_irqRelease u ch l (by simpa [hcfg] using hl), c, ch, v, hw, hl⟩)
    · refine .inl ?_
      rw [sameOtherLines_irqRelease u ch l (by rwa [hcfg]),
        commandEffect_sameOtherLines hu l (by rwa [cfg_storeDir]), level_storeDir, State.level_answer]
  · refine ((commitPass_raisesWhenComplete hc).2 l).imp_right fun ⟨hl, high, hcomplete⟩ =>
      .inr ⟨high, .storage, by simp [targetOf, hk], hl, hcomplete, .inl hk⟩
  · rcases flush_level hc with same | ⟨⟨-, hlines⟩, hbusexc⟩
    · exact .inl (same l)
    · exact (hlines l).imp_right fun ⟨hl, high, hcomplete⟩ =>
        .inr ⟨high, .storage, by simp [targetOf, hk], hl, hcomplete, .inr (.inl ⟨hk, hbusexc⟩)⟩
  · exact ((memReadXfer_raisesWhenComplete hc).2 l).imp_right fun ⟨hl, high, hcomplete⟩ =>
      .inr ⟨high, ch, by simp [targetOf, hk], hl, hcomplete, .inr (.inr (.inl hk))⟩
  · exact ((memWriteXfer_raisesWhenComplete hc).2 l).imp_right fun ⟨hl, high, hcomplete⟩ =>
      .inr ⟨high, ch, by simp [targetOf, hk], hl, hcomplete, .inr (.inr (.inr ⟨bs, hk⟩))⟩
  · exact .inl rfl

/-! ### The other channels -/

theorem flush_sameOtherChannels {s t : State} (h : flush s = .next t) :
    SameOtherChannels .storage s t := by
  intro k hk
  rcases flush_next h with ⟨-, rfl⟩ | ⟨-, -, rfl⟩ | ⟨-, -, u, hu, rfl⟩ | ⟨-, -, a, u, hu, rfl⟩
  · rfl
  · rfl
  · exact (chan_flushDone_ne u hk).trans (memWrite_chan.1 u hu k)
  · exact (chan_faultTransition_ne u hk).trans (memWrite_chan.2 a u hu k)

theorem memWriteXfer_sameOtherChannels {ch : Chan} {bytes : List Byte} {s t : State}
    (h : memWriteXfer ch bytes s = .next t) : SameOtherChannels ch s t := by
  cases hg : guarded s ch with
  | false => exact (memWriteXfer_writeCompleted hg h).channels
  | true =>
    obtain ⟨hch, -⟩ := memWriteXfer_next h
    rw [memWriteXfer_of_guarded bytes hch hg] at h
    cases h
    exact fun _ _ => rfl

/-! ### Refusals, from the parts to the operation -/

/-- The one refusal of a turn is that of a misaligned segment (42_burst_engine.md R165). -/
theorem commitTurn_refuse {s : State} {r : Refusal} (h : commitTurn s = .refuse r) : r = .misaligned := by
  rcases commitTurn_cases s with ⟨-, e⟩ | ⟨-, -, e⟩ | ⟨-, -, u, -, -, -, -, e | ⟨e, -⟩ | e | e⟩ <;>
    rw [e] at h <;> cases h
  rfl

theorem commitLoop_refused {turns : Nat} {s : State} {r : Refusal} (h : commitLoop turns s = .refused r) :
    r = .misaligned := by
  induction turns generalizing s with
  | zero => cases h
  | succ turns ih =>
    cases hturn : commitTurn s.fill with
    | leave u =>
      rw [commitLoop_of_leave hturn] at h
      cases h
    | again u =>
      rw [commitLoop_of_again hturn] at h
      exact ih h
    | refuse r' =>
      rw [commitLoop_of_refuse hturn] at h
      cases h
      exact commitTurn_refuse hturn

theorem commitPass_refused {s : State} {r : Refusal} (h : commitPass s = .refused r) : r = .misaligned := by
  unfold commitPass at h
  split at h
  · cases h
  · split at h
    · cases h
    · cases h
    · next hloop =>
      cases h
      exact commitLoop_refused hloop

theorem flush_refused {s : State} {r : Refusal} (h : flush s = .refused r) : r = .misaligned := by
  unfold flush at h
  split_ifs at h
  · cases h
    rfl
  · split at h <;> cases h

/-- Of the commands only the two that run a pass are refused, on `storage`, and for the pass's reason
(41_csr_commands.md R130, R136, R137). -/
theorem commandEffect_refused {c : Command} {ch : Chan} {s : State} {r : Refusal}
    (h : commandEffect c ch s = .refused r) :
    r = .misaligned ∧ ch = .storage ∧ (c = .clrcomplete ∨ c = .setsupdateClrcomplete) := by
  by_cases hpass : RunsNoPass c ch
  · obtain ⟨u, hu⟩ := exists_commandEffect_of_runsNoPass hpass s
    rw [hu] at h
    cases h
  · have hruns : ch = .storage ∧ (c = .clrcomplete ∨ c = .setsupdateClrcomplete) := by
      unfold RunsNoPass at hpass
      tauto
    obtain ⟨rfl, rfl | rfl⟩ := hruns
    · exact ⟨commitPass_refused (s := s.modChan .storage _) h, rfl, .inl rfl⟩
    · exact ⟨commitPass_refused (s := s.modChan .storage _) h, rfl, .inr rfl⟩

theorem csrWrite_refused {ch : Chan} {v : CsrValue} {effect : State → Result} {s : State} {r : Refusal}
    (h : csrWrite ch v effect s = .refused r) :
    (r = .width ∧ csrValueWidth v ≠ csrWidth s.cfg.gen) ∨
      effect (storeDir ch (csrWriteValue s.cfg v) (s.answer .none)) = .refused r := by
  unfold csrWrite at h
  split at h
  · split at h
    · cases h
    · cases h
    · next heffect =>
      cases h
      exact .inr heffect
  · next hw =>
    cases h
    exact .inl ⟨rfl, hw⟩

/-- A CSR write to a decoded channel is refused for its width, or runs the engine on a misaligned segment
(40_register_access.md R103, 42_burst_engine.md R165). -/
theorem exec_csrWriteOf_refusal {i : Instr} {c : Command} {ch : Chan} {v : CsrValue} {s : State} {r : Refusal}
    (hw : csrWriteOf s.cfg i = some (c, ch, v)) (h : exec i s = .refused r) :
    (r = .width ∧ csrValueWidth v ≠ csrWidth s.cfg.gen) ∨ (r = .misaligned ∧ runsEngine s.cfg i = true) := by
  rw [exec_csrWriteOf hw] at h
  refine (csrWrite_refused h).imp_right fun heffect => ?_
  obtain ⟨hr, rfl, hc⟩ := commandEffect_refused heffect
  exact ⟨hr, runsEngine_of_csrWriteOf hw hc⟩

theorem exec_read_refusal {i : Instr} {reg : Reg} {off : Word} {width : Width} {s : State} {r : Refusal}
    (hk : kindOf i = .read reg off width) (h : exec i s = .refused r) :
    r = .width ∧ width ≠ ownWidth s.cfg reg := by
  by_cases hw : width = ownWidth s.cfg reg
  · subst hw
    cases hd : decodeChan s.cfg off with
    | none =>
      rw [exec_read_unknown hk hd] at h
      cases h
    | some ch =>
      rw [exec_read_decoded hk hd] at h
      cases h
  · rw [exec_read_of_width_ne hk hw] at h
    cases h
    exact ⟨rfl, hw⟩

/-- A register write is refused for its width, or is the CSR write of a command whose pass is. -/
theorem exec_store_refusal {i : Instr} {reg : Reg} {off : Word} {v : BusValue} {s : State} {r : Refusal}
    (hk : kindOf i = .store reg off v) (h : exec i s = .refused r) :
    (r = .width ∧ v.width ≠ ownWidth s.cfg reg) ∨ (r = .misaligned ∧ runsEngine s.cfg i = true) := by
  by_cases hw : v.width = ownWidth s.cfg reg
  · cases hd : decodeChan s.cfg off with
    | none =>
      rw [exec_store_unknown hk hw hd] at h
      cases h
    | some ch =>
      by_cases hreg : reg = .csr
      · subst hreg
        obtain ⟨cv, hv⟩ := csrValueOf_of_width_eq hw
        have hwrite : csrWriteOf s.cfg i = some (csrCommand s.cfg cv, ch, cv) := by
          simp [csrWriteOf, hk, hv, hd]
        rw [ownWidth, ← csrValueWidth_of_csrValueOf hv]
        exact exec_csrWriteOf_refusal hwrite h
      · rw [ownWidth_of_ne_csr _ hreg] at hw
        obtain ⟨w, rfl⟩ : ∃ w, v = .word w := by
          cases v with
          | word w => exact ⟨w, rfl⟩
          | byte b => cases hw
          | half x => cases hw
        rw [exec_store_decoded hk hreg hd] at h
        cases h
  · rw [exec_store_of_width_ne hk hw] at h
    cases h
    exact .inl ⟨rfl, hw⟩

theorem memReadXfer_refused {ch : Chan} {s : State} {r : Refusal} (h : memReadXfer ch s = .refused r) :
    (r = .notGeneric ∧ ch = .storage) ∨ r = .underflow := by
  unfold memReadXfer at h
  split_ifs at h with hch
  · cases h
    exact .inl ⟨rfl, hch⟩
  · dsimp only at h
    split at h <;> cases h
    exact .inr rfl

theorem memWriteXfer_refused {ch : Chan} {bytes : List Byte} {s : State} {r : Refusal}
    (h : memWriteXfer ch bytes s = .refused r) :
    (r = .notGeneric ∧ ch = .storage) ∨ r = .underflow ∨ r = .genericBusFault := by
  unfold memWriteXfer at h
  split_ifs at h with hch
  · cases h
    exact .inl ⟨rfl, hch⟩
  · dsimp only at h
    split at h <;> cases h
    · exact .inr (.inl rfl)
    · exact .inr (.inr rfl)

/-! ### The statements -/

/-- Settles O40: of the three things that can happen to a line, only a device call that completes its channel
leaves it high where it was low. -/
theorem linesRiseOnlyAtCompletionsAndFaults : Obligations.LinesRiseOnlyAtCompletionsAndFaults := by
  intro i s t l h low high
  rcases exec_level_cases h l with same | ⟨low', -⟩ | ⟨-, hcompletes⟩
  · rw [high, low] at same
    cases same
  · rw [high] at low'
    cases low'
  · exact hcompletes

/-- Settles O41: of the same three, only the release of a CSR write leaves it low where it was high. -/
theorem linesFallOnlyByCsrWrites : Obligations.LinesFallOnlyByCsrWrites := by
  intro i s t l h high low
  rcases exec_level_cases h l with same | ⟨-, hwrite⟩ | ⟨high', -⟩
  · rw [high, low] at same
    cases same
  · exact hwrite
  · rw [low] at high'
    cases high'

/-- Settles O42, by the kind of the operation: each one's frame lemma leaves every channel but its own. -/
theorem otherChannelsAreUntouched : Obligations.OtherChannelsAreUntouched := by
  intro i s t k h hr htarget
  rcases exec_next_cases h with ⟨_, _, _, _, -, rfl⟩ | ⟨_, _, -, -, rfl⟩ | ⟨_, _, _, ch, -, hk, hd, rfl⟩ |
    ⟨c, ch, v, u, hw, -, hu, rfl⟩ | ⟨hk, hc⟩ | ⟨hk, hc⟩ | ⟨ch, hk, hc⟩ | ⟨ch, bs, hk, hc⟩ | ⟨hk, -⟩
  · rfl
  · rfl
  · have hne : k ≠ ch := fun e => htarget (by simp [targetOf, hk, hd, e])
    rw [State.chan_answer, State.chan_modChan_ne s _ hne]
  · have hne : k ≠ ch := fun e => htarget (by rw [targetOf_of_csrWriteOf hw, e])
    rw [State.chan_irqRelease, commandEffect_sameOtherChannels hu k hne, chan_storeDir_ne _ _ _ hne,
      State.chan_answer]
  · exact commitPass_sameOtherChannels hc k fun e => htarget (by simp [targetOf, hk, e])
  · exact flush_sameOtherChannels hc k fun e => htarget (by simp [targetOf, hk, e])
  · exact (memReadXfer_onlyChannel hc).1 k fun e => htarget (by simp [targetOf, hk, e])
  · exact memWriteXfer_sameOtherChannels hc k fun e => htarget (by simp [targetOf, hk, e])
  · exact absurd hk hr

/-- Settles O48, by the kind of the operation: each one's refusals, and reset, which has none. -/
theorem onlyTheSpecsRefusals : Obligations.OnlyTheSpecsRefusals := by
  intro i s r h
  cases hk : kindOf i with
  | read reg off width =>
    obtain ⟨rfl, hw⟩ := exec_read_refusal hk h
    exact .inr (.inr (.inr (.inr ⟨rfl, .inl ⟨reg, off, width, rfl, hw⟩⟩)))
  | store reg off v =>
    rcases exec_store_refusal hk h with ⟨rfl, hw⟩ | hengine
    · exact .inr (.inr (.inr (.inr ⟨rfl, .inr (.inl ⟨reg, off, v, rfl, hw⟩)⟩)))
    · exact .inl hengine
  | command c ch v =>
    have hwrite : csrWriteOf s.cfg i = some (c, ch, v) := by simp [csrWriteOf, hk]
    rcases exec_csrWriteOf_refusal hwrite h with ⟨rfl, hw⟩ | hengine
    · exact .inr (.inr (.inr (.inr ⟨rfl, .inr (.inr ⟨c, ch, v, rfl, hw⟩)⟩)))
    · exact .inl hengine
  | commit =>
    rw [Laws.exec_eq_execKind, hk] at h
    exact .inl ⟨commitPass_refused h, by simp [runsEngine, hk]⟩
  | flush =>
    rw [Laws.exec_eq_execKind, hk] at h
    exact .inl ⟨flush_refused h, by simp [runsEngine, hk]⟩
  | blockRead ch =>
    rw [Laws.exec_eq_execKind, hk] at h
    rcases memReadXfer_refused h with ⟨rfl, rfl⟩ | rfl
    · exact .inr (.inr (.inr (.inl ⟨rfl, .inl rfl⟩)))
    · exact .inr (.inl ⟨rfl, .inl ⟨ch, rfl⟩⟩)
  | blockWrite ch bytes =>
    rw [Laws.exec_eq_execKind, hk] at h
    rcases memWriteXfer_refused h with ⟨rfl, rfl⟩ | rfl | rfl
    · exact .inr (.inr (.inr (.inl ⟨rfl, .inr ⟨bytes, rfl⟩⟩)))
    · exact .inr (.inl ⟨rfl, .inr ⟨ch, bytes, rfl⟩⟩)
    · exact .inr (.inr (.inl ⟨rfl, ch, bytes, rfl⟩))
  | reset =>
    rw [exec_of_kindOf_reset hk] at h
    cases h

end Sys2Proof.Machine

/-! PROOF. Reset (70_reset_and_hazards.md R240, R241): what a system reset zeroes and what it leaves. -/

namespace Sys2Proof.Machine

/-! ### The fields a system reset keeps -/

@[simp] theorem staging_systemReset (s : State) : (systemReset s).staging = Staging.zero s.cfg.burst := rfl
@[simp] theorem mem_systemReset (s : State) : (systemReset s).mem = s.mem := rfl
@[simp] theorem lines_systemReset (s : State) : (systemReset s).lines = s.lines := rfl
@[simp] theorem calls_systemReset (s : State) : (systemReset s).calls = s.calls := rfl

theorem sameInputs_systemReset (s : State) : SameInputs s (systemReset s) := ⟨rfl, rfl, rfl⟩

theorem sameSetting_systemReset (s : State) : SameSetting s (systemReset s) := ⟨rfl, rfl⟩

/-! ### The statement -/

/-- Settles O49: what reset answers, field by field; its reply is the only other field it writes. -/
theorem systemResetZeroesTheBlock : Obligations.SystemResetZeroesTheBlock := by
  intro s
  have hmem : (systemReset (s.answer .none)).mem = s.mem := by
    rw [mem_systemReset, State.mem_answer]
  refine ⟨systemReset (s.answer .none), exec_of_kindOf_reset rfl s, fun ch => ?channels, ?count, ?bytes,
    fun a => ?memory, hmem, ?lines, ?calls, ?inputs, ?setting⟩
  case channels => exact chan_systemReset _ ch
  case count => rw [staging_systemReset, Staging.zero]
  case bytes => rw [staging_systemReset, State.cfg_answer, Staging.zero]
  case memory => rw [hmem]
  case lines => rw [lines_systemReset, State.lines_answer]
  case calls => rw [calls_systemReset, State.calls_answer]
  case inputs => exact sameInputs_systemReset (s.answer .none)
  case setting => exact (sameSetting_answer s .none).trans (sameSetting_systemReset _)

end Sys2Proof.Machine
